-- ==== Sys2Proof/Word.lean ====
section
/-! DEFINITION. The word types of bit_pattern_c CORE, one for each width the spec gives a value
(`00_scope.md` R9, R11), the unit names (R3, R61) and the automaton positions (R66, R110). -/

namespace Sys2Proof

/-- One sample: 8 bits, bit 7 the first in the stream (R11, R64). -/
abbrev Byte := BitVec 8

/-- The command word of one clock edge, `{rst, init[2:0], en[2:0], din[7:0]}` (R60). -/
abbrev CommandWord := BitVec 15

/-- A per-step count and a ROM entry: `CNT_W` = 4 bits, unsigned (R63, R71). -/
abbrev Count := BitVec 4

/-- The combined value `{prev, cur}` (R67). -/
abbrev Combined := BitVec 16

/-- A 3-bit window of the combined value (R68). -/
abbrev Window := BitVec 3

/-- A LUT index, which is a ROM address (R40, R70). -/
abbrev LutIndex := BitVec 10

/-- The two context bits, bit 1 the earlier (R100). -/
abbrev Context := BitVec 2

/-- The 12-bit result word `{cnt[2], cnt[1], cnt[0]}` (R63). -/
abbrev ResultWord := BitVec 12

/-- The three matcher units, in the source's order (R3, R61). -/
inductive UnitId where
  | sm
  | sw
  | lut
  deriving DecidableEq, Repr

/-- The unit numbers 0, 1, 2 (R61). -/
def UnitId.number : UnitId → Nat
  | .sm => 0
  | .sw => 1
  | .lut => 2

/-- The automaton positions, "a named closed set" (R66, R110, R118). -/
inductive Pos where
  /-- `P0`: the last bit was 0, or nothing was consumed. -/
  | p0
  /-- `P1`: the last bit was 1, the one before it was not. -/
  | p1
  /-- `P2`: the last two bits were 1. -/
  | p2
  deriving DecidableEq, Repr, Inhabited

end Sys2Proof
end

