-- ==== Sys2Proof/Config.lean ====
section
/-! DEFINITION. What is fixed for the block: the constants wired into the logic (`00_scope.md` R9,
`10_state.md` R29), and the values the spec leaves unspecified, which have no body. -/

namespace Sys2Proof.Config

/-- `PATTERN`: `1,1,0`, the first stream bit in bit 2 (R9, R65). -/
def pattern : Window := 0b110

/-- `WIN_MASK` (R9, R65), at the width of the combined value it is applied to (R68). -/
def winMask : Combined := 0b111

/-- `IDX_MASK`, 16 bits wide when applied to the combined value (R29, R70). -/
def idxMask : Combined := 0x3FF

/-- The bit positions of a sample and the eight shift amounts, in the order 7 down to 0
(R12, R29, R68). -/
def bitOrder : List Nat := [7, 6, 5, 4, 3, 2, 1, 0]

/-- `LUT_DEPTH` (R9). -/
def lutDepth : Nat := 1024

/-- `CNT_MAX`, the largest per-step count (R9, R99). -/
def cntMax : Nat := 3

/-- `SM.pos` at power-up, before the first INIT.SM or RESET: unspecified (R33). DESIGN CHOICE,
safe: a free value, log 6. -/
opaque powerUpPos : Pos

/-- `SW.prev` at power-up: unspecified (R33). DESIGN CHOICE, safe: a free value, log 6. -/
opaque powerUpSwPrev : Byte

/-- `LUT.prev` at power-up: unspecified (R33). DESIGN CHOICE, safe: a free value, log 6. -/
opaque powerUpLutPrev : Byte

end Sys2Proof.Config
end

