-- ==== Sys2Proof/Syntax.lean ====
section
/-! DEFINITION. The ten operations of `spec/opcode_table.json` (`30_encoding.md` R77), one
constructor each, and the lines of the trace notation (R75). -/

namespace Sys2Proof

/-- The operations of R77. One command word selects one of them for each unit (R62). -/
inductive Instr where
  /-- `RESET` (R96): every unit. -/
  | reset
  /-- `INIT.SM` (R113). -/
  | initSm
  /-- `INIT.SW` (R127). -/
  | initSw
  /-- `INIT.LUT` (R143). -/
  | initLut
  /-- `PROC.SM din` (R112). -/
  | procSm (din : Byte)
  /-- `PROC.SW din` (R126). -/
  | procSw (din : Byte)
  /-- `PROC.LUT din` (R142). -/
  | procLut (din : Byte)
  /-- `HOLD.SM` (R114). -/
  | holdSm
  /-- `HOLD.SW` (R128). -/
  | holdSw
  /-- `HOLD.LUT` (R144). -/
  | holdLut
  deriving DecidableEq, Repr

/-- The operation's name in the table. -/
def Instr.mnemonic : Instr → String
  | .reset => "RESET"
  | .initSm => "INIT.SM"
  | .initSw => "INIT.SW"
  | .initLut => "INIT.LUT"
  | .procSm _ => "PROC.SM"
  | .procSw _ => "PROC.SW"
  | .procLut _ => "PROC.LUT"
  | .holdSm => "HOLD.SM"
  | .holdSw => "HOLD.SW"
  | .holdLut => "HOLD.LUT"

/-- Whether the operation is one of unit `u`; `RESET` counts for all three units (R77). -/
def Instr.concerns : Instr → UnitId → Bool
  | .reset, _ => true
  | .initSm, u => u == .sm
  | .initSw, u => u == .sw
  | .initLut, u => u == .lut
  | .procSm _, u => u == .sm
  | .procSw _, u => u == .sw
  | .procLut _, u => u == .lut
  | .holdSm, u => u == .sm
  | .holdSw, u => u == .sw
  | .holdLut, u => u == .lut

/-- The sample operand of a `PROC`; no other operation has one (R77). -/
def Instr.operand? : Instr → Option Byte
  | .procSm b => some b
  | .procSw b => some b
  | .procLut b => some b
  | .reset => none
  | .initSm => none
  | .initSw => none
  | .initLut => none
  | .holdSm => none
  | .holdSw => none
  | .holdLut => none

/-- Whether the operation initialises the units it concerns: INIT.u or RESET (R32). -/
def Instr.initialises : Instr → Bool
  | .reset => true
  | .initSm => true
  | .initSw => true
  | .initLut => true
  | .procSm _ => false
  | .procSw _ => false
  | .procLut _ => false
  | .holdSm => false
  | .holdSw => false
  | .holdLut => false

/-- `INIT.u` by unit. -/
def Instr.initOf : UnitId → Instr
  | .sm => .initSm
  | .sw => .initSw
  | .lut => .initLut

/-- `PROC.u b` by unit. -/
def Instr.procOf : UnitId → Byte → Instr
  | .sm, b => .procSm b
  | .sw, b => .procSw b
  | .lut, b => .procLut b

/-- `HOLD.u` by unit. -/
def Instr.holdOf : UnitId → Instr
  | .sm => .holdSm
  | .sw => .holdSw
  | .lut => .holdLut

/-- `op` of the trace notation: `INIT.unit` or `PROC.unit byte` (R75). -/
inductive TraceOp where
  | init (u : UnitId)
  | proc (u : UnitId) (b : Byte)
  deriving DecidableEq, Repr

/-- The unit a trace operation names. -/
def TraceOp.target : TraceOp → UnitId
  | .init u => u
  | .proc u _ => u

/-- The byte a trace operation carries. -/
def TraceOp.byte? : TraceOp → Option Byte
  | .init _ => none
  | .proc _ b => some b

/-- The operation a trace operation stands for. -/
def TraceOp.instr : TraceOp → Instr
  | .init u => .initOf u
  | .proc u b => .procOf u b

/-- `step` of the trace notation: one line of a run (R75). -/
inductive TraceStep where
  | reset
  | nop
  | ops (l : List TraceOp)
  deriving DecidableEq, Repr

end Sys2Proof
end

