-- ==== Sys2Proof/WellFormed.lean ====
section
/-! DEFINITION. Well-formedness. A single operation has nothing to check: every 8-bit sample is legal and
there is no illegal, reserved or hint encoding (`30_encoding.md` R64, R73), so `Instr` carries no
check of its own. A LINE of the trace notation has three (R75): it names at least one operation, no
unit twice, and all its `PROC`s carry the same byte, since there is one `din`. -/

namespace Sys2Proof

/-- At most one operation per unit (R75). -/
def TraceOp.distinctUnits : List TraceOp → Bool
  | [] => true
  | o :: l => l.all (fun p => p.target != o.target) && TraceOp.distinctUnits l

/-- The byte of the line's first `PROC`, if it has one. -/
def TraceOp.lineByte? : List TraceOp → Option Byte
  | [] => none
  | o :: l => o.byte?.or (TraceOp.lineByte? l)

/-- Every `PROC` of the line carries the line's byte (R75). -/
def TraceOp.sameByte (l : List TraceOp) : Bool :=
  l.all fun o => o.byte?.isNone || o.byte? == TraceOp.lineByte? l

/-- The form R75 gives a line. -/
def TraceStep.wf : TraceStep → Bool
  | .reset => true
  | .nop => true
  | .ops l => !l.isEmpty && TraceOp.distinctUnits l && TraceOp.sameByte l

end Sys2Proof
end

