-- ==== Sys2Proof/Decode.lean ====
section
/-! DEFINITION. The decoder of the command word (`30_encoding.md` R60 to R62, R77) and the encoder
(R75, R76). Decoding a command word is total: all 2^15 words are legal (R73). A raw number wider
than the 15 input wires is no command word and is rejected by name. -/

namespace Sys2Proof

/-! ### The fields of the command word (R60) -/

/-- `rst` = `CW[14]`. -/
def CommandWord.rst (w : CommandWord) : Bool := w.getLsbD 14

/-- `init[u]` = `CW[11 + u]` (R61). -/
def CommandWord.init (w : CommandWord) (u : UnitId) : Bool := w.getLsbD (11 + u.number)

/-- `en[u]` = `CW[8 + u]` (R61). -/
def CommandWord.en (w : CommandWord) (u : UnitId) : Bool := w.getLsbD (8 + u.number)

/-- `din` = `CW[7:0]`. -/
def CommandWord.din (w : CommandWord) : Byte := w.extractLsb' 0 8

/-! ### Decoding (R62) -/

/-- The operation unit `u` selects: `rst` before `init[u]` before `en[u]` before hold (R62, R183). -/
def decodeUnit (u : UnitId) (w : CommandWord) : Instr :=
  if CommandWord.rst w then .reset
  else if CommandWord.init w u then .initOf u
  else if CommandWord.en w u then .procOf u (CommandWord.din w)
  else .holdOf u

/-- The operations of one step: `RESET` alone, which counts for every unit, or one operation for each
unit in the order SM, SW, LUT (R62, R77). -/
def decode (w : CommandWord) : List Instr :=
  if CommandWord.rst w then [.reset]
  else [decodeUnit .sm w, decodeUnit .sw w, decodeUnit .lut w]

/-! ### The operation map (R77, `spec/opcode_table.json`) -/

/-- One row of the operation map: a word `w` selects the row when `w & mask = pattern`. -/
structure OpRow where
  mnemonic : String
  unit : Option UnitId
  mask : CommandWord
  pattern : CommandWord
  deriving DecidableEq, Repr

/-- The ten rows as R77 prints them; `unit` is `none` for `RESET`, which counts for all three. -/
def opTable : List OpRow :=
  [⟨"RESET", none, 0x4000, 0x4000⟩,
   ⟨"INIT.SM", some .sm, 0x4800, 0x0800⟩,
   ⟨"INIT.SW", some .sw, 0x5000, 0x1000⟩,
   ⟨"INIT.LUT", some .lut, 0x6000, 0x2000⟩,
   ⟨"PROC.SM", some .sm, 0x4900, 0x0100⟩,
   ⟨"PROC.SW", some .sw, 0x5200, 0x0200⟩,
   ⟨"PROC.LUT", some .lut, 0x6400, 0x0400⟩,
   ⟨"HOLD.SM", some .sm, 0x4900, 0x0000⟩,
   ⟨"HOLD.SW", some .sw, 0x5200, 0x0000⟩,
   ⟨"HOLD.LUT", some .lut, 0x6400, 0x0000⟩]

/-- The rows of unit `u` that `w` selects. -/
def selectedRows (u : UnitId) (w : CommandWord) : List OpRow :=
  opTable.filter fun r => (r.unit == none || r.unit == some u) && (w &&& r.mask) == r.pattern

/-! ### Encoding (R75, R77) -/

/-- The canonical word of one operation with the other units on hold: every ignored bit 0 (R75). -/
def encode : Instr → CommandWord
  | .reset => 0x4000
  | .initSm => 0x0800
  | .initSw => 0x1000
  | .initLut => 0x2000
  | .procSm b => 0x0100 ||| b.setWidth 15
  | .procSw b => 0x0200 ||| b.setWidth 15
  | .procLut b => 0x0400 ||| b.setWidth 15
  | .holdSm => 0x0000
  | .holdSw => 0x0000
  | .holdLut => 0x0000

/-- The word of several operations given in one step: the fields are horizontal, so the words of the
operations are joined bit by bit (R60, R62). -/
def encodeOps (l : List Instr) : CommandWord :=
  l.foldl (fun w i => w ||| encode i) 0x0000

/-- The canonical form of a command word: every ignored bit 0 (R75). -/
def canonical (w : CommandWord) : CommandWord := encodeOps (decode w)

/-! ### The trace notation (R75, R76) -/

/-- The operation a line gives unit `u`; a unit the line does not name executes `HOLD` (R75). -/
def TraceOp.forUnit (u : UnitId) : List TraceOp → Instr
  | [] => .holdOf u
  | o :: l => if o.target = u then o.instr else TraceOp.forUnit u l

/-- The operations a line of the trace notation selects. -/
def TraceStep.instrs : TraceStep → List Instr
  | .reset => [.reset]
  | .nop => [.holdSm, .holdSw, .holdLut]
  | .ops l => [TraceOp.forUnit .sm l, TraceOp.forUnit .sw l, TraceOp.forUnit .lut l]

/-- The canonical command word of a line (R75). -/
def TraceStep.word (t : TraceStep) : CommandWord := encodeOps t.instrs

/-- `FEED b`: all three `PROC` with one byte (R76). -/
def feed (b : Byte) : TraceStep := .ops [.proc .sm b, .proc .sw b, .proc .lut b]

/-- `INIT.ALL` (R76). -/
def initAll : TraceStep := .ops [.init .sm, .init .sw, .init .lut]

/-- `FEEDSEQ`: one `FEED` step per byte, in order (R76). -/
def feedSeq (l : List Byte) : List TraceStep := l.map feed

/-- The source's `initialize()` of one variant (R76). -/
def initializeCall (u : UnitId) : TraceStep := .ops [.init u]

/-- The source's `process(state, b)` of one variant (R76). -/
def processCall (u : UnitId) (b : Byte) : TraceStep := .ops [.proc u b]

/-- One hexadecimal digit. -/
def hexDigit (n : Nat) : String :=
  ((["0", "1", "2", "3", "4", "5", "6", "7", "8", "9", "A", "B", "C", "D", "E", "F"] : List String)[n]?).getD "?"

/-- `byte` of the trace notation: `0x` and two hexadecimal digits (R75). -/
def byteText (b : Byte) : String := "0x" ++ hexDigit (b.toNat / 16) ++ hexDigit (b.toNat % 16)

/-- `unit` of the trace notation (R75). -/
def UnitId.text : UnitId → String
  | .sm => "SM"
  | .sw => "SW"
  | .lut => "LUT"

/-- The text of a line's operations, separated by commas, with the shared operand written once after
each `PROC` (R75). -/
def TraceOp.lineText : List TraceOp → String
  | [] => ""
  | o :: l =>
    let head := match o with
      | .init u => "INIT." ++ u.text
      | .proc u b => "PROC." ++ u.text ++ " " ++ byteText b
    if l.isEmpty then head else head ++ ", " ++ TraceOp.lineText l

/-- A line of the trace notation as text (R75). -/
def TraceStep.text : TraceStep → String
  | .reset => "RESET"
  | .nop => "NOP"
  | .ops l => TraceOp.lineText l

/-! ### Raw words -/

/-- Why a raw number is no command word. -/
inductive DecodeError where
  /-- A bit above bit 14 is set: there is no such input wire (R60, R74). DESIGN CHOICE, safe: log 10. -/
  | tooWide
  deriving DecidableEq, Repr

/-- The command word in the low `nbits` bits of a raw number. -/
def readCommandWord (nbits w : Nat) : Except DecodeError CommandWord :=
  if w % 2 ^ nbits < 2 ^ 15 then .ok (BitVec.ofNat 15 (w % 2 ^ nbits)) else .error .tooWide

/-- Whether the operation leaves its unit alone. -/
def Instr.isHold : Instr → Bool
  | .holdSm => true
  | .holdSw => true
  | .holdLut => true
  | .reset => false
  | .initSm => false
  | .initSw => false
  | .initLut => false
  | .procSm _ => false
  | .procSw _ => false
  | .procLut _ => false

/-- The first operation of a step that is no `HOLD`; the first `HOLD` where every unit holds. A word
selects one operation for EACH unit (R62), so this is a choice of one to name the word by; the machine
never uses it. DESIGN CHOICE, safe: log 10. -/
def principalOp (w : CommandWord) : Instr :=
  ((decode w).find? fun i => !i.isHold).getD .holdSm

/-- The instruction to name a raw word of the opcode table by. -/
def decodeTableWord (nbits w : Nat) : Option Instr :=
  match readCommandWord nbits w with
  | .ok cw => some (principalOp cw)
  | .error _ => none

end Sys2Proof
end

