-- ==== Sys2Proof/Machine/State.lean ====
section
/-! DEFINITION. The state of the block (`10_state.md` R20), the model's own fields beside it, the reset
state (R32), the power-up state (R33), and the reasons a step can stop. -/

namespace Sys2Proof.Machine

/-- The LUT ROM (R24, R40): the entries that differ from the table of R140, by rising address. An
unlisted address reads as R140's entry (`romRead`), so the ROM of the running block lists nothing.
DESIGN CHOICE, safe: log 8. -/
abbrev Rom := List (Nat × Count)

/-- The reasons a step stops with a fault. There is NO constructor: "The block raises no synchronous
exception" (`60_exceptions.md` R180), and the one internal code without meaning, `SM.pos` = `11`
(`93_implementation_defined.md` U2), cannot be written in `Pos` (log 7). -/
inductive Fault where
  deriving DecidableEq, Repr

/-- The reasons the model gives a step no meaning. -/
inductive Refusal where
  /-- Raised by `exec` for an operation that has no meaning yet. No operation raises it: all ten have
  theirs. Safe. -/
  | notModelled (mnemonic : String)
  /-- Raised by `PROC.u` on a unit that has executed no `INIT.u` and no `RESET` since power-up: "a
  caller-side contract violation", which a model refuses (`93_implementation_defined.md` U1,
  `60_exceptions.md` R181, `95_test_vectors.md` P7). Safe: the chip runs on with some value, the model
  gives the run no meaning. Log 4. -/
  | uninitialised (u : UnitId)
  deriving DecidableEq, Repr

/-- The state. The first four fields are the whole of R20; the others are the model's own. -/
structure State where
  /-- `SM.pos` = `x[0]` (R21). -/
  smPos : Pos
  /-- `SW.prev` = `x[1]` (R22). -/
  swPrev : Byte
  /-- `LUT.prev` = `x[2]` (R23). -/
  lutPrev : Byte
  /-- The LUT ROM (R24). -/
  rom : Rom
  /-- Ghost mark of unit SM: it has been initialised since power-up (R28, U1). Not hardware. Log 4. -/
  smMark : Bool
  /-- Ghost mark of unit SW. -/
  swMark : Bool
  /-- Ghost mark of unit LUT. -/
  lutMark : Bool
  /-- What `cnt[0]` showed in the step just taken (R59, R63). The hardware keeps no such register
  (R30), and no operation reads it. Log 3. -/
  cntSm : Count
  /-- What `cnt[1]` showed in the step just taken. -/
  cntSw : Count
  /-- What `cnt[2]` showed in the step just taken. -/
  cntLut : Count
  /-- The command words the harness will present at the coming clock edges, oldest first (R60).
  Log 1. -/
  inputs : List CommandWord
  deriving DecidableEq, Repr

/-- The block right after a `RESET` step: the registers as R32 gives them, the ROM as built (R202), the
outputs 0 (R98, R202), every unit initialised, and no command word presented yet. Log 3, log 5. -/
def State.reset : State where
  smPos := .p0
  swPrev := 0x00
  lutPrev := 0x00
  rom := []
  smMark := true
  swMark := true
  lutMark := true
  cntSm := 0
  cntSw := 0
  cntLut := 0
  inputs := []

/-- The block at power-up, before the first `INIT.u` or `RESET`: registers unspecified (R33), no unit
initialised, the ROM specified from power-up (R33). The outputs are those of a step in which nothing
processed. Log 5, log 6. -/
def State.powerUp : State where
  smPos := Config.powerUpPos
  swPrev := Config.powerUpSwPrev
  lutPrev := Config.powerUpLutPrev
  rom := []
  smMark := false
  swMark := false
  lutMark := false
  cntSm := 0
  cntSw := 0
  cntLut := 0
  inputs := []

end Sys2Proof.Machine
end

