-- ==== Sys2Proof/Machine/Operands.lean ====
section
/-! DEFINITION. The data formats and the pure functions the operations are built on: the combined value
and its windows (`30_encoding.md` R67, R68), the LUT index (R70), the synthetic pair (R72), `SMBIT`
(`41_state_machine.md` R111), `SWCOUNT` (`42_sliding_window.md` R125). There are no flags (R28), so
there is no flag computation. -/

namespace Sys2Proof.Machine

/-! ### The automaton (R66, R111, R112) -/

/-- The 2-bit code of a position (R66). The code `11` names no position. -/
def posCode : Pos → BitVec 2
  | .p0 => 0b00
  | .p1 => 0b01
  | .p2 => 0b10

/-- The position a 2-bit code names, if it names one (R66, R73). -/
def posOfCode (c : BitVec 2) : Option Pos :=
  if c = 0b00 then some .p0
  else if c = 0b01 then some .p1
  else if c = 0b10 then some .p2
  else none

/-- `SMBIT(p, bit)`: the next position, and whether this bit completes an occurrence (R111). -/
def smBit : Pos → Bool → Pos × Bool
  | .p0, false => (.p0, false)
  | .p0, true => (.p1, false)
  | .p1, false => (.p0, false)
  | .p1, true => (.p2, false)
  | .p2, false => (.p0, true)
  | .p2, true => (.p2, false)

/-- A 4-bit step counter after one more result: incremented when `m` holds (R101). -/
def countIf (n : Count) (m : Bool) : Count := if m then n + 1 else n

/-- One bit-step of `PROC.SM` on the pair of position and step counter (R112). -/
def smAdvance (acc : Pos × Count) (bit : Bool) : Pos × Count :=
  ((smBit acc.1 bit).1, countIf acc.2 (smBit acc.1 bit).2)

/-- The bits of a sample in stream order, most significant first (R42). -/
def sampleBits (b : Byte) : List Bool := Config.bitOrder.map fun k => b.getLsbD k

/-- The eight bit-steps of `PROC.SM`: the position left behind and the step counter (R112). -/
def smScan (p : Pos) (din : Byte) : Pos × Count := (sampleBits din).foldl smAdvance (p, 0)

/-! ### The combined value and its windows (R67, R68, R125) -/

/-- `(zext_16(prev) << 8) | zext_16(cur)`: the shift is done at 16 bits (R67, R101). -/
def combine (prev cur : Byte) : Combined := (prev.setWidth 16 <<< 8) ||| cur.setWidth 16

/-- Window `i`: `(comb >> i) & 0b111` (R68). -/
def window (comb : Combined) (i : Nat) : Window := ((comb >>> i) &&& Config.winMask).setWidth 3

/-- Whether window `i` equals the pattern (R68). -/
def windowMatches (comb : Combined) (i : Nat) : Bool := window comb i == Config.pattern

/-- `SWCOUNT(prev, cur)` (R125): one definition with two users, `PROC.SW` and the build of the LUT
ROM (R131). -/
def swCount (prev cur : Byte) : Count :=
  Config.bitOrder.foldl (fun n i => countIf n (windowMatches (combine prev cur) i)) 0

/-! ### The LUT index and the synthetic pair (R70, R72) -/

/-- `(((zext_16(prev) << 8) | zext_16(cur)) & 0x3FF)[9:0]` (R70). -/
def lutIndex (prev cur : Byte) : LutIndex := (combine prev cur &&& Config.idxMask).setWidth 10

/-- `hi = zext_8(c[9:8])`, the synthetic previous sample (R72). -/
def pairHi (c : LutIndex) : Byte := (c.extractLsb' 8 2).setWidth 8

/-- `lo = c[7:0]`, the synthetic current sample (R72). -/
def pairLo (c : LutIndex) : Byte := c.extractLsb' 0 8

/-- The entry the build stores at index `c`: `zext_4(SWCOUNT(hi, lo))`, already 4 bits wide (R140). -/
def builtEntry (c : LutIndex) : Count := swCount (pairHi c) (pairLo c)

end Sys2Proof.Machine
end

