-- ==== Sys2Proof/Machine/Ops.lean ====
section
/-! DEFINITION. The named operations over the ROM and over the units' registers, marks and outputs. There
is no exception to take and none to return from (`60_exceptions.md` R180, R185, R186). -/

namespace Sys2Proof.Machine

/-! ### The ROM (R40, R47, R49, R140) -/

/-- What an address with nothing listed reads as: the entry the build gives it (R140, U7). -/
def romDefault (a : Nat) : Count := builtEntry (BitVec.ofNat 10 a)

/-- `MemRead(a, 1)`: the whole entry at `a`, no side effect (R12, R47). -/
def romRead (m : Rom) (a : LutIndex) : Count := (m.lookup a.toNat).getD (romDefault a.toNat)

/-- The listing of one entry: nothing where the value is what an unlisted address reads as. -/
def romCell (a : LutIndex) (v : Count) : Rom := if v = romDefault a.toNat then [] else [(a.toNat, v)]

/-- `MemWrite(a, 1, v)` (R12). Only the build uses it; no operation of the running block does (R49). -/
def romWrite : Rom → LutIndex → Count → Rom
  | [], a, v => romCell a v
  | (b, w) :: m, a, v =>
    if a.toNat < b then romCell a v ++ (b, w) :: m
    else if a.toNat = b then romCell a v ++ m
    else (b, w) :: romWrite m a v

/-- The canonical form from address `lo` up: addresses strictly rising and below 1024, and no entry
equal to what its address reads as when unlisted. -/
def romWfFrom (lo : Nat) : Rom → Bool
  | [] => true
  | (a, v) :: m => lo ≤ a && a < Config.lutDepth && v != romDefault a && romWfFrom (a + 1) m

/-- The canonical form of the ROM. -/
def Rom.wf (m : Rom) : Bool := romWfFrom 0 m

/-- `LUT_BUILD` over a memory with any contents: every index in turn gets
`SWCOUNT(hi, lo)` (R140). It is over before the first step (R141). -/
def lutBuild (m : Rom) : Rom :=
  (List.range Config.lutDepth).foldl
    (fun r c => romWrite r (BitVec.ofNat 10 c)
      (swCount (pairHi (BitVec.ofNat 10 c)) (pairLo (BitVec.ofNat 10 c)))) m

/-! ### Registers, marks, outputs -/

/-- `SM.pos <- p`. -/
def State.setPos (s : State) (p : Pos) : State := { s with smPos := p }

/-- `SW.prev <- b`. -/
def State.setSwPrev (s : State) (b : Byte) : State := { s with swPrev := b }

/-- `LUT.prev <- b`. -/
def State.setLutPrev (s : State) (b : Byte) : State := { s with lutPrev := b }

/-- The output `cnt[u]` of the step just taken (R63). -/
def State.cnt (s : State) : UnitId → Count
  | .sm => s.cntSm
  | .sw => s.cntSw
  | .lut => s.cntLut

/-- `cnt[u] = n` for this step. -/
def State.setCnt (s : State) (u : UnitId) (n : Count) : State :=
  match u with
  | .sm => { s with cntSm := n }
  | .sw => { s with cntSw := n }
  | .lut => { s with cntLut := n }

/-- The ghost mark of unit `u` (R28, U1). -/
def State.marked (s : State) : UnitId → Bool
  | .sm => s.smMark
  | .sw => s.swMark
  | .lut => s.lutMark

/-- Sets the ghost mark of unit `u`; nothing clears one (U1). -/
def State.setMark (s : State) (u : UnitId) : State :=
  match u with
  | .sm => { s with smMark := true }
  | .sw => { s with swMark := true }
  | .lut => { s with lutMark := true }

/-- The three outputs as one word, `{cnt[2], cnt[1], cnt[0]}` (R63). -/
def State.resultWord (s : State) : ResultWord := s.cntLut ++ s.cntSw ++ s.cntSm

/-! ### What the operations of a unit share -/

/-- `x[0] <- P0`, count 0, marked (R113). -/
def State.initSm (s : State) : State := ((s.setPos .p0).setMark .sm).setCnt .sm 0

/-- `x[1] <- 0x00`, count 0, marked (R127). -/
def State.initSw (s : State) : State := ((s.setSwPrev 0x00).setMark .sw).setCnt .sw 0

/-- `x[2] <- 0x00`, count 0, marked; the ROM unchanged (R143). -/
def State.initLut (s : State) : State := ((s.setLutPrev 0x00).setMark .lut).setCnt .lut 0

/-- A `PROC` of unit `u` with effect `f`, refused where the unit was never initialised (U1). -/
def procUnit (u : UnitId) (f : State → State) (s : State) : Host.Outcome State Fault Refusal :=
  if s.marked u then .next (f s) else .refused (.uninitialised u)

/-- A `HOLD` of unit `u`: the output is 0 and nothing else changes (R98). -/
def holdUnit (u : UnitId) (s : State) : Host.Outcome State Fault Refusal := .next (s.setCnt u 0)

end Sys2Proof.Machine
end

