-- ==== Sys2Proof/Machine/Interface.lean ====
section
/-! DEFINITION. The interface family: `RESET` (`40_matcher_interface.md` R96). -/

namespace Sys2Proof.Machine

/-- `RESET` (R96): exactly `INIT.SM`, `INIT.SW` and `INIT.LUT` in one step; the ROM is not touched. -/
def execReset (s : State) : Host.Outcome State Fault Refusal := .next s.initSm.initSw.initLut

end Sys2Proof.Machine
end

