-- ==== Sys2Proof/Machine/Lut.lean ====
section
/-! DEFINITION. The LUT family (`43_lut.md` R142 to R144). -/

namespace Sys2Proof.Machine

/-- `INIT.LUT` (R143): it clears `LUT.prev` and builds nothing. -/
def execInitLut (s : State) : Host.Outcome State Fault Refusal := .next s.initLut

/-- `PROC.LUT din` (R142): one ROM read at `{LUT.prev[1:0], din}`. -/
def execProcLut (din : Byte) (s : State) : Host.Outcome State Fault Refusal :=
  procUnit .lut (fun t => (t.setCnt .lut (romRead t.rom (lutIndex t.lutPrev din))).setLutPrev din) s

/-- `HOLD.LUT` (R144): the ROM is not read. -/
def execHoldLut (s : State) : Host.Outcome State Fault Refusal := holdUnit .lut s

end Sys2Proof.Machine
end

