-- ==== Sys2Proof/Machine/SlidingWindow.lean ====
section
/-! DEFINITION. The SlidingWindow family (`42_sliding_window.md` R126 to R128). -/

namespace Sys2Proof.Machine

/-- `INIT.SW` (R127). -/
def execInitSw (s : State) : Host.Outcome State Fault Refusal := .next s.initSw

/-- `PROC.SW din` (R126): the count is taken with `SW.prev` as it was before the step. -/
def execProcSw (din : Byte) (s : State) : Host.Outcome State Fault Refusal :=
  procUnit .sw (fun t => (t.setCnt .sw (swCount t.swPrev din)).setSwPrev din) s

/-- `HOLD.SW` (R128). -/
def execHoldSw (s : State) : Host.Outcome State Fault Refusal := holdUnit .sw s

end Sys2Proof.Machine
end

