-- ==== Sys2Proof/Machine/StateMachine.lean ====
section
/-! DEFINITION. The StateMachine family (`41_state_machine.md` R112 to R114). -/

namespace Sys2Proof.Machine

/-- `INIT.SM` (R113). -/
def execInitSm (s : State) : Host.Outcome State Fault Refusal := .next s.initSm

/-- `PROC.SM din` (R112): eight bit-steps, most significant bit first, in one step. -/
def execProcSm (din : Byte) (s : State) : Host.Outcome State Fault Refusal :=
  procUnit .sm (fun t => (t.setCnt .sm (smScan t.smPos din).2).setPos (smScan t.smPos din).1) s

/-- `HOLD.SM` (R114). -/
def execHoldSm (s : State) : Host.Outcome State Fault Refusal := holdUnit .sm s

end Sys2Proof.Machine
end

