-- ==== Sys2Proof/Machine/Dispatch.lean ====
section
/-! DEFINITION. One arm per operation. -/

namespace Sys2Proof.Machine

def exec (i : Instr) (s : State) : Host.Outcome State Fault Refusal :=
  match i with
  | .reset => Sys2Proof.Machine.execReset s
  | .initSm => Sys2Proof.Machine.execInitSm s
  | .initSw => Sys2Proof.Machine.execInitSw s
  | .initLut => Sys2Proof.Machine.execInitLut s
  | .procSm din => Sys2Proof.Machine.execProcSm din s
  | .procSw din => Sys2Proof.Machine.execProcSw din s
  | .procLut din => Sys2Proof.Machine.execProcLut din s
  | .holdSm => Sys2Proof.Machine.execHoldSm s
  | .holdSw => Sys2Proof.Machine.execHoldSw s
  | .holdLut => Sys2Proof.Machine.execHoldLut s

end Sys2Proof.Machine
end

