-- ==== Sys2Proof/Machine/Clock.lean ====
section
/-! DEFINITION. One clock edge (`00_scope.md` R13, `30_encoding.md` R60, R62): the harness's next command
word is sampled and every unit executes the operation its own bits select. -/

namespace Sys2Proof.Machine

/-- The word the harness presents at the next edge, and the state with that word taken from the
queue. With nothing queued the harness presents `NOP` (R76, R211). DESIGN CHOICE, safe: log 2. -/
def takeWord (s : State) : CommandWord × State :=
  match s.inputs with
  | [] => (0x0000, s)
  | w :: ws => (w, { s with inputs := ws })

/-- Operations executed one after another inside one step. The units' state is disjoint, so this is
their simultaneous execution (R13, R97, R190, log 9); the step is refused as a whole where one of them
is (log 4). -/
def runOps : List Instr → State → Host.Outcome State Fault Refusal
  | [], s => .next s
  | i :: l, s =>
    match exec i s with
    | .next t => runOps l t
    | .fault r => .fault r
    | .refused r => .refused r

/-- One rising clock edge with the command word `w` (R13). -/
def clockEdge (w : CommandWord) (s : State) : Host.Outcome State Fault Refusal := runOps (decode w) s

/-- One clock edge with the harness's next word. -/
def clockStep (s : State) : Host.Outcome State Fault Refusal := clockEdge (takeWord s).1 (takeWord s).2

/-- The state in which the harness presents `w` at the next edge, before any word already queued. -/
def presentWord (w : CommandWord) (s : State) : State := { s with inputs := w :: s.inputs }

end Sys2Proof.Machine
end

