-- ==== Sys2Proof/Machine/Step.lean ====
section
/-! DEFINITION. One step of the machine, and the place of the next command word. -/

namespace Sys2Proof.Machine

/-- One step: one rising clock edge with the command word the harness presents at it (R13, R60). -/
def step (s : State) : Host.Outcome State Fault Refusal := clockStep s

/-- `s` with the harness presenting the low 15 of the `nbits` bits of `w` at the next edge. The block
has no program store (R27, R55); a command word comes from outside the machine, and this stands for
the harness presenting it (log 1). -/
def State.withFetchWord (s : State) (nbits w : Nat) : State :=
  presentWord (BitVec.ofNat 15 (w % 2 ^ nbits)) s

end Sys2Proof.Machine
end

