-- ==== Sys2Proof/Machine/Reference.lean ====
section
/-! DEFINITION. The reference functions the contract is stated with, none of which the machine uses: the
logical bit stream and its occurrences (`20_memory.md` R44, `40_matcher_interface.md` R91), `STEPCOUNT`,
`NEXTCTX` and `TOTAL` (R100), `POS_OF` (`41_state_machine.md` R116). -/

namespace Sys2Proof.Machine

/-- `STEPCOUNT(c, b)` (R100). -/
def stepCount (c : Context) (b : Byte) : Nat :=
  let v : BitVec 10 := c ++ b
  Config.bitOrder.foldl
    (fun n i => if v.getLsbD (i + 2) && v.getLsbD (i + 1) && !v.getLsbD i then n + 1 else n) 0

/-- `NEXTCTX(c, b) = b[1:0]` (R100). -/
def nextCtx (_c : Context) (b : Byte) : Context := b.extractLsb' 0 2

/-- The per-step counts `TOTAL` adds, from context `c` (R100). -/
def countsFrom (c : Context) : List Byte → List Nat
  | [] => []
  | b :: l => stepCount c b :: countsFrom (nextCtx c b) l

/-- `TOTAL([b_0, ..., b_{m-1}])` (R100). -/
def total (l : List Byte) : Nat := (countsFrom 0b00 l).sum

/-- `POS_OF` of a 2-bit context (R116). -/
def posOf (c : Context) : Pos :=
  if c = 0b11 then .p2
  else if c = 0b01 then .p1
  else .p0

/-- Bit `n` of the logical bit stream of the samples `S`: `s[8*j + (7 - k)] = b_j[k]` (R44). -/
def streamBit (S : List Byte) (n : Nat) : Bool :=
  match S[n / 8]? with
  | some b => b.getLsbD (7 - n % 8)
  | none => false

/-- An occurrence of the pattern at index `n`, the position of its last bit (R44). -/
def occursAt (S : List Byte) (n : Nat) : Bool :=
  2 ≤ n && n < 8 * S.length && streamBit S (n - 2) && streamBit S (n - 1) && !streamBit S n

/-- How many occurrences have their last bit in sample `j` (R91). -/
def occurrencesEndingIn (S : List Byte) (j : Nat) : Nat :=
  ((List.range 8).filter fun d => occursAt S (8 * j + d)).length

/-- How many occurrences the whole stream holds (R92). -/
def occurrences (S : List Byte) : Nat := ((List.range (8 * S.length)).filter (occursAt S)).length

end Sys2Proof.Machine
end

