-- ==== Sys2Proof/Safety.lean ====
section
/-! DEFINITION. What a run is, what the harness sees of it, what the harness owes the block
(`70_reset_and_hazards.md` R205), and the invariant of the state: the words the claims use. -/

namespace Sys2Proof.Machine

/-! ### Runs -/

/-- The three outputs of one step (R63). -/
structure Counts where
  sm : Count
  sw : Count
  lut : Count
  deriving DecidableEq, Repr

/-- The output `cnt[u]` among the three. -/
def Counts.of (c : Counts) : UnitId → Count
  | .sm => c.sm
  | .sw => c.sw
  | .lut => c.lut

/-- The outputs of the step that led to `s`. -/
def State.outputs (s : State) : Counts := ⟨s.cntSm, s.cntSw, s.cntLut⟩

/-- A run: where it ended and what the ports showed in each step. -/
structure Run where
  final : State
  outputs : List Counts
  deriving DecidableEq, Repr

/-- `n` steps of the machine; none where one is refused. -/
def runSteps : Nat → State → Option Run
  | 0, s => some ⟨s, []⟩
  | n + 1, s =>
    match step s with
    | .next t => (runSteps n t).map fun r => ⟨r.final, t.outputs :: r.outputs⟩
    | .fault _ => none
    | .refused _ => none

/-- The run in which the harness presents exactly the words `ws`, one at each edge. -/
def runWords (ws : List CommandWord) (s : State) : Option Run := runSteps ws.length { s with inputs := ws }

/-! ### What the words say of one unit -/

/-- The sample unit `u` processes at a step with word `w`, if it processes one (R62). -/
def sampleOf (u : UnitId) (w : CommandWord) : Option Byte := (decodeUnit u w).operand?

/-- Whether `w` initialises unit `u`: `INIT.u` or `RESET`. -/
def initsUnit (u : UnitId) (w : CommandWord) : Bool := (decodeUnit u w).initialises

/-- The operands of the `PROC.u` steps among `ws`. -/
def samplesOf (u : UnitId) (ws : List CommandWord) : List Byte := ws.filterMap (sampleOf u)

/-- The samples of unit `u` since its last initialisation, after `acc` and then the words `ws`: the
logical stream of the unit in bytes (R44). -/
def streamAfter (u : UnitId) (acc : List Byte) : List CommandWord → List Byte
  | [] => acc
  | w :: ws => streamAfter u (if initsUnit u w then [] else acc ++ (sampleOf u w).toList) ws

/-- `COUNTS_u`: the values `cnt[u]` of the `PROC.u` steps (`45_equivalence_properties.md`). -/
def procCounts (u : UnitId) (ws : List CommandWord) (outs : List Counts) : List Nat :=
  (ws.zip outs).filterMap fun p => (sampleOf u p.1).map fun _ => (p.2.of u).toNat

/-- The words of `RUN_u(S)`: an initialisation of `u`, then the samples `S` in order, with any number of
`HOLD.u` steps anywhere between them; the other units' bits are free. -/
def IsRunOf (u : UnitId) (S : List Byte) (ws : List CommandWord) : Prop :=
  ∃ w rest, ws = w :: rest ∧ initsUnit u w = true ∧ (∀ x ∈ rest, initsUnit u x = false) ∧
    samplesOf u rest = S

/-- The total of every `cnt[u]` of a run, as a harness adds them without looking at the command
(R98). -/
def portTotal (u : UnitId) (r : Run) : Nat := (r.outputs.map fun c => (c.of u).toNat).sum

/-- The register of unit `u` after its samples `S` since initialisation, as a 2-bit context (R165). -/
def lastContext (S : List Byte) : Context :=
  match S.getLast? with
  | some b => b.extractLsb' 0 2
  | none => 0b00

/-- The last sample, or 0x00 where there was none (R22, R23). -/
def lastSample (S : List Byte) : Byte := (S.getLast?).getD 0x00

/-! ### The harness's duty (R205) -/

/-- Unit `u`, initialised before the words or not (`m`), is given no sample before an initialisation. -/
def initBeforeUse (u : UnitId) (m : Bool) : List CommandWord → Bool
  | [] => true
  | w :: ws => ((sampleOf u w).isNone || m) && initBeforeUse u (m || initsUnit u w) ws

/-- The duty of R205 for every unit, from the marks of `s`: the safe runs are these. -/
def obeysDuty (s : State) (ws : List CommandWord) : Bool :=
  initBeforeUse .sm s.smMark ws && initBeforeUse .sw s.swMark ws && initBeforeUse .lut s.lutMark ws

/-! ### The invariant -/

/-- The ROM is in canonical form and every entry is the count R147 gives its address. -/
def RomBuilt (m : Rom) : Prop :=
  m.wf = true ∧ ∀ a : LutIndex, (romRead m a).toNat = stepCount (a.extractLsb' 8 2) (a.extractLsb' 0 8)

/-- What every step keeps: the ROM holds its table (R24, R49), and no port shows more than `CNT_MAX`
(R63, R99). -/
def State.Inv (s : State) : Prop := RomBuilt s.rom ∧ ∀ u, (s.cnt u).toNat ≤ Config.cntMax

/-- The register `x[u]` is the same in both states. -/
def sameRegister : UnitId → State → State → Prop
  | .sm, s, t => s.smPos = t.smPos
  | .sw, s, t => s.swPrev = t.swPrev
  | .lut, s, t => s.lutPrev = t.lutPrev

/-- The outcome is a next state of which `P` holds. -/
def Answers (o : Host.Outcome State Fault Refusal) (P : State → Prop) : Prop := ∃ t, o = .next t ∧ P t

/-- Two states agree in all that unit `u` owns: its register, its mark, its output, and, for unit LUT, the
ROM (R25). -/
def agreeOn : UnitId → State → State → Prop
  | .sm, s, t => s.smPos = t.smPos ∧ s.smMark = t.smMark ∧ s.cntSm = t.cntSm
  | .sw, s, t => s.swPrev = t.swPrev ∧ s.swMark = t.swMark ∧ s.cntSw = t.cntSw
  | .lut, s, t => s.lutPrev = t.lutPrev ∧ s.lutMark = t.lutMark ∧ s.cntLut = t.cntLut ∧ s.rom = t.rom

end Sys2Proof.Machine
end

