-- ==== Sys2Proof/Certificates/Slice0/Obligations.lean ====
section
/-! DEFINITION. The statements, one per numbered rule (or group of rules) of `spec/` that says what the block
does. In every statement about a whole next state, the ghost marks are those of
`93_implementation_defined.md` U1 (log 4), and the queue `inputs` and the fields `cntSm`, `cntSw`,
`cntLut` are the model's own (log 1, log 3); everything a `with` does not name is unchanged. -/

open Sys2Proof Sys2Proof.Machine

/-! ### The operations, one statement each -/

/-- R96. -/
def Obligations.ResetEffect : Prop :=
  (∀ s : State, exec .reset s =
    .next { s with
      smPos := .p0, swPrev := 0x00, lutPrev := 0x00, smMark := true, swMark := true, lutMark := true,
      cntSm := 0, cntSw := 0, cntLut := 0 }) ∧
  (∀ w : CommandWord, w.getLsbD 14 = true → decode w = [.reset]) ∧
  (∀ s : State, runOps [.initSm, .initSw, .initLut] s = exec .reset s) ∧
  (∀ s : State, runOps [.reset, .reset] s = exec .reset s) ∧
  (∀ (s : State) (w : CommandWord), s.smPos = .p2 → s.swPrev = 0xFF → s.lutPrev = 0xFF →
    w ∈ ([0x4000, 0x47C0] : List CommandWord) →
    Answers (clockEdge w s) fun t => t.smPos = .p0 ∧ t.swPrev = 0x00 ∧ t.lutPrev = 0x00 ∧
      t.cntSm = 0 ∧ t.cntSw = 0 ∧ t.cntLut = 0)

/-- R113. -/
def Obligations.InitSmEffect : Prop :=
  (∀ s : State, exec .initSm s = .next { s with smPos := .p0, smMark := true, cntSm := 0 }) ∧
  (∀ w : CommandWord, w.getLsbD 14 = false → w.getLsbD 11 = true → decodeUnit .sm w = .initSm) ∧
  (∀ (w : CommandWord) (s t : State), w.getLsbD 14 = true ∨ w.getLsbD 11 = true →
    clockEdge w s = .next t → t.smPos = .p0 ∧ t.cntSm = 0) ∧
  (∀ s : State, s.smPos = .p2 → Answers (clockEdge 0x0800 s) fun t => t.smPos = .p0 ∧ t.cntSm = 0)

/-- R127. -/
def Obligations.InitSwEffect : Prop :=
  (∀ s : State, exec .initSw s = .next { s with swPrev := 0x00, swMark := true, cntSw := 0 }) ∧
  (∀ w : CommandWord, w.getLsbD 14 = false → w.getLsbD 12 = true → decodeUnit .sw w = .initSw) ∧
  (∀ (w : CommandWord) (s t : State), w.getLsbD 14 = true ∨ w.getLsbD 12 = true →
    clockEdge w s = .next t → t.swPrev = 0x00 ∧ t.cntSw = 0) ∧
  (∀ b : Byte, windowMatches (combine 0x00 b) 7 = false ∧ windowMatches (combine 0x00 b) 6 = false) ∧
  (∀ s : State, s.swPrev = 0xAB → Answers (clockEdge 0x1000 s) fun t => t.swPrev = 0x00 ∧ t.cntSw = 0)

/-- R143. -/
def Obligations.InitLutEffect : Prop :=
  (∀ s : State, exec .initLut s = .next { s with lutPrev := 0x00, lutMark := true, cntLut := 0 }) ∧
  (∀ w : CommandWord, w.getLsbD 14 = false → w.getLsbD 13 = true → decodeUnit .lut w = .initLut) ∧
  (∀ (w : CommandWord) (s t : State), w.getLsbD 14 = true ∨ w.getLsbD 13 = true →
    clockEdge w s = .next t → t.lutPrev = 0x00 ∧ t.cntLut = 0 ∧ t.rom = s.rom) ∧
  (∀ s : State, s.lutPrev = 0x03 → RomBuilt s.rom → s.lutMark = true →
    (∃ r, runWords [0x2000, 0x0400] s = some r ∧ r.outputs.map Counts.lut = [0, 0]) ∧
    (∃ r, runWords [0x0400] s = some r ∧ r.outputs.map Counts.lut = [1]))

/-- R114. -/
def Obligations.HoldSmEffect : Prop :=
  (∀ s : State, exec .holdSm s = .next { s with cntSm := 0 }) ∧
  (∀ w : CommandWord, w.getLsbD 14 = false → w.getLsbD 11 = false → w.getLsbD 8 = false →
    decodeUnit .sm w = .holdSm) ∧
  (∀ (ws : List CommandWord) (s : State) (r : Run), (∀ w ∈ ws, decodeUnit .sm w = .holdSm) →
    runWords ws s = some r → r.final.smPos = s.smPos ∧ ∀ c ∈ r.outputs, c.sm = 0) ∧
  (∀ s : State, s.smPos = .p1 → s.swMark = true → s.lutMark = true →
    Answers (clockEdge 0x06AA s) fun t => t.smPos = .p1 ∧ t.cntSm = 0)

/-- R128. -/
def Obligations.HoldSwEffect : Prop :=
  (∀ s : State, exec .holdSw s = .next { s with cntSw := 0 }) ∧
  (∀ w : CommandWord, w.getLsbD 14 = false → w.getLsbD 12 = false → w.getLsbD 9 = false →
    decodeUnit .sw w = .holdSw) ∧
  (∀ s : State, s.swPrev = 0x03 → s.smMark = true → s.swMark = true →
    (Answers (clockEdge 0x0100 s) fun t => t.swPrev = 0x03 ∧ t.cntSw = 0) ∧
    (Answers (exec (.procSw 0x00) s) fun t => t.cntSw = 1))

/-- R144. -/
def Obligations.HoldLutEffect : Prop :=
  (∀ s : State, exec .holdLut s = .next { s with cntLut := 0 }) ∧
  (∀ w : CommandWord, w.getLsbD 14 = false → w.getLsbD 13 = false → w.getLsbD 10 = false →
    decodeUnit .lut w = .holdLut) ∧
  (∀ s : State, s.lutPrev = 0x01 → s.smMark = true → s.swMark = true →
    Answers (clockEdge 0x0380 s) fun t => t.lutPrev = 0x01 ∧ t.cntLut = 0 ∧ t.rom = s.rom)

/-- R112: the eight bit-steps written out. -/
def Obligations.ProcSmEffect : Prop :=
  (∀ (s : State) (b : Byte), s.smMark = true →
    let r7 := smBit s.smPos (b.getLsbD 7)
    let r6 := smBit r7.1 (b.getLsbD 6)
    let r5 := smBit r6.1 (b.getLsbD 5)
    let r4 := smBit r5.1 (b.getLsbD 4)
    let r3 := smBit r4.1 (b.getLsbD 3)
    let r2 := smBit r3.1 (b.getLsbD 2)
    let r1 := smBit r2.1 (b.getLsbD 1)
    let r0 := smBit r1.1 (b.getLsbD 0)
    exec (.procSm b) s = .next { s with
      smPos := r0.1
      cntSm := BitVec.ofNat 4
        (r7.2.toNat + r6.2.toNat + r5.2.toNat + r4.2.toNat + r3.2.toNat + r2.2.toNat + r1.2.toNat + r0.2.toNat) }) ∧
  (∀ w : CommandWord, w.getLsbD 14 = false → w.getLsbD 11 = false → w.getLsbD 8 = true →
    decodeUnit .sm w = .procSm (w.extractLsb' 0 8)) ∧
  (∀ (s t : State) (b : Byte), exec (.procSm b) s = .next t → t.cntSm.toNat ≤ 3) ∧
  (∀ s : State, s.smMark = true →
    (Answers (exec (.procSm 0x00) s) fun t => t.smPos = .p0 ∧ t.cntSm = if s.smPos = .p2 then 1 else 0) ∧
    (Answers (exec (.procSm 0xFF) s) fun t => t.smPos = .p2 ∧ t.cntSm = 0) ∧
    (s.smPos = .p1 → Answers (exec (.procSm 0x80) s) fun t => t.cntSm = 1) ∧
    (s.smPos = .p0 → Answers (exec (.procSm 0xC0) s) fun t => t.smPos = .p0 ∧ t.cntSm = 1)) ∧
  (∀ (s t s' t' : State) (b b' : Byte), exec (.procSm b) s = .next t → exec (.procSm b') s' = .next t' →
    b.extractLsb' 0 2 = b'.extractLsb' 0 2 → t.smPos = t'.smPos) ∧
  (∀ (w : CommandWord) (s t : State) (b : Byte), decodeUnit .sm w = .procSm b → clockEdge w s = .next t →
    Answers (exec (.procSm b) s) fun a => agreeOn .sm a t)

/-- R126. -/
def Obligations.ProcSwEffect : Prop :=
  (∀ (s : State) (b : Byte), s.swMark = true →
    exec (.procSw b) s = .next { s with swPrev := b, cntSw := swCount s.swPrev b }) ∧
  (∀ w : CommandWord, w.getLsbD 14 = false → w.getLsbD 12 = false → w.getLsbD 9 = true →
    decodeUnit .sw w = .procSw (w.extractLsb' 0 8)) ∧
  (∀ p b : Byte, (swCount p b).toNat ≤ 3) ∧
  (∀ p b : Byte,
    (window (combine p b) 7 = BitVec.ofBool (p.getLsbD 1) ++ BitVec.ofBool (p.getLsbD 0) ++ BitVec.ofBool (b.getLsbD 7)) ∧
    (window (combine p b) 6 = BitVec.ofBool (p.getLsbD 0) ++ BitVec.ofBool (b.getLsbD 7) ++ BitVec.ofBool (b.getLsbD 6))) ∧
  (∀ p : Byte, p.extractLsb' 0 2 = 0b11 → windowMatches (combine p 0x00) 7 = true ∧ swCount p 0x00 = 1) ∧
  (∀ p b : Byte, p.getLsbD 0 = false →
    windowMatches (combine p b) 7 = false ∧ windowMatches (combine p b) 6 = false) ∧
  (∀ p : Byte, swCount p 0xFF = 0) ∧
  (∀ p q b : Byte, p.extractLsb' 0 2 = q.extractLsb' 0 2 → swCount p b = swCount q b) ∧
  (combine 0xFF 0x80 = 0xFF80 ∧
    Config.bitOrder.map (window 0xFF80) = [0b111, 0b110, 0b100, 0b000, 0b000, 0b000, 0b000, 0b000]) ∧
  (∀ s : State, s.swMark = true → s.swPrev = 0xFF →
    exec (.procSw 0x80) s = .next { s with swPrev := 0x80, cntSw := 1 })

/-- R142. The range and the worked example are of a ROM that holds its table. -/
def Obligations.ProcLutEffect : Prop :=
  (∀ (s : State) (b : Byte), s.lutMark = true →
    exec (.procLut b) s =
      .next { s with lutPrev := b, cntLut := romRead s.rom (s.lutPrev.extractLsb' 0 2 ++ b) }) ∧
  (∀ w : CommandWord, w.getLsbD 14 = false → w.getLsbD 13 = false → w.getLsbD 10 = true →
    decodeUnit .lut w = .procLut (w.extractLsb' 0 8)) ∧
  (∀ (s t : State) (b : Byte), RomBuilt s.rom → exec (.procLut b) s = .next t → t.cntLut.toNat ≤ 3) ∧
  (∀ b : Byte, lutIndex 0xFD b = lutIndex 0x01 b) ∧
  (∀ s : State, s.lutMark = true → RomBuilt s.rom → s.lutPrev = 0xFF →
    lutIndex 0xFF 0x80 = 0x380 ∧ exec (.procLut 0x80) s = .next { s with lutPrev := 0x80, cntLut := 1 })

/-- `93_implementation_defined.md` U1, `95_test_vectors.md` P7. The mark and the refusal are the model's, log 4. -/
def Obligations.ProcUninitialisedRefused : Prop :=
  ∀ (u : UnitId) (b : Byte) (s : State), s.marked u = false →
    exec (.procOf u b) s = .refused (.uninitialised u)

/-! ### The automaton -/

/-- R111: the whole function. -/
def Obligations.SmBitTable : Prop :=
  smBit .p0 false = (.p0, false) ∧ smBit .p0 true = (.p1, false) ∧
  smBit .p1 false = (.p0, false) ∧ smBit .p1 true = (.p2, false) ∧
  smBit .p2 false = (.p0, true) ∧ smBit .p2 true = (.p2, false)

/-- R116. -/
def Obligations.PositionAfterSample : Prop :=
  (∀ (s t : State) (b : Byte), exec (.procSm b) s = .next t → t.smPos = posOf (b.extractLsb' 0 2)) ∧
  (posOf 0b00 = .p0 ∧ posOf 0b10 = .p0 ∧ posOf 0b01 = .p1 ∧ posOf 0b11 = .p2) ∧
  (∀ p : Pos, (smBit p false).1 = .p0 ∧ (smBit (smBit p false).1 true).1 = .p1 ∧
    (smBit (smBit p true).1 true).1 = .p2) ∧
  (State.reset.smPos = posOf (State.reset.swPrev.extractLsb' 0 2))

/-- R117. -/
def Obligations.SmAgreesWithReference : Prop :=
  (∀ (c : Context) (b : Byte) (s : State), s.smMark = true → s.smPos = posOf c →
    exec (.procSm b) s =
      .next { s with smPos := posOf (b.extractLsb' 0 2), cntSm := BitVec.ofNat 4 (stepCount c b) } ∧
    stepCount c b < 16) ∧
  posOf 0b00 = posOf 0b10 ∧ (∀ b : Byte, stepCount 0b00 b = stepCount 0b10 b)

/-- R115: a run of `k` ones, `k ≥ 2`, and a zero is one match, completed by the zero, and leaves `P0`. -/
def Obligations.RunOfOnesIsOneMatch : Prop :=
  ∀ (p : Pos) (k : Nat) (n : Count), 2 ≤ k →
    (List.replicate k true).foldl smAdvance (p, n) = (.p2, n) ∧
    (List.replicate k true ++ [false]).foldl smAdvance (p, n) = (.p0, n + 1)

/-! ### The sliding window -/

/-- R125: the combined value, the windows, the count of the eight positions in any order. -/
def Obligations.SwCountCountsWindows : Prop :=
  ∀ prev cur : Byte,
    combine prev cur = prev ++ cur ∧
    (∀ i, i ≤ 7 → window (combine prev cur) i = (prev ++ cur).extractLsb' i 3) ∧
    (∀ order : List Nat, order.Perm [7, 6, 5, 4, 3, 2, 1, 0] →
      (swCount prev cur).toNat =
        (order.filter fun i => (prev ++ cur).extractLsb' i 3 == 0b110).length) ∧
    (swCount prev cur).toNat ≤ 3

/-- R129. -/
def Obligations.OnlyTwoBitsOfPrevMatter : Prop :=
  (∀ p q b : Byte, p.extractLsb' 0 2 = q.extractLsb' 0 2 → swCount p b = swCount q b) ∧
  (∀ p b : Byte, (swCount p b).toNat = stepCount (p.extractLsb' 0 2) b) ∧
  (∀ p p' b : Byte, p.extractLsb' 0 2 = 0b10 → p'.extractLsb' 0 2 = 0b00 → swCount p b = swCount p' b)

/-! ### The ROM -/

/-- R140: the build, over a memory with any contents, leaves the ROM of the running block. -/
def Obligations.LutBuildGivesTheRom : Prop :=
  ∀ m : Rom, m.wf = true →
    lutBuild m = State.reset.rom ∧
    ∀ c : LutIndex, romRead (lutBuild m) c = swCount ((c.extractLsb' 8 2).setWidth 8) (c.extractLsb' 0 8)

/-- R147. -/
def Obligations.RomClosedForm : Prop :=
  (∀ c : LutIndex, (romRead State.reset.rom c).toNat =
    ((List.range 8).filter fun i => (c >>> i) &&& 0b111 == 0b110).length) ∧
  (∀ (k : Context) (b : Byte), (romRead State.reset.rom (k ++ b)).toNat = stepCount k b)

/-- R148. -/
def Obligations.RomFacts : Prop :=
  let rom := fun c : Nat => (romRead State.reset.rom (BitVec.ofNat 10 c)).toNat
  let all := List.range 1024
  (∀ c ∈ all, rom c ≤ 3) ∧
  (all.filter fun c => rom c == 0).length = 232 ∧
  (all.filter fun c => rom c == 1).length = 568 ∧
  (all.filter fun c => rom c == 2).length = 216 ∧
  (all.filter fun c => rom c == 3) = [0x1B6, 0x336, 0x366, 0x36C, 0x36D, 0x36E, 0x376, 0x3B6] ∧
  (all.map rom).sum = 1024 ∧
  (∀ i ∈ List.range 8, (all.filter fun c => (c >>> i) % 8 == 0b110).length = 128) ∧
  rom 0x000 = 0 ∧ rom 0x0C0 = 1 ∧ rom 0x300 = 1 ∧ rom 0x380 = 1 ∧ rom 0x3FF = 0 ∧ rom 0x006 = 1

/-- R149. -/
def Obligations.RomQuarters : Prop :=
  let rom := fun (k : Context) (b : Byte) => (romRead State.reset.rom (k ++ b)).toNat
  ∀ b : Byte,
    rom 0b10 b = rom 0b00 b ∧
    (rom 0b01 b = rom 0b00 b + if b.extractLsb' 6 2 = 0b10 then 1 else 0) ∧
    (rom 0b11 b = rom 0b00 b + if b.getLsbD 7 = false ∨ b.extractLsb' 6 2 = 0b10 then 1 else 0) ∧
    (b.extractLsb' 6 2 = 0b10 ↔ 0x80 ≤ b.toNat ∧ b.toNat ≤ 0xBF) ∧
    ((b.getLsbD 7 = false ∨ b.extractLsb' 6 2 = 0b10) ↔ b.toNat ≤ 0xBF)

/-- R150, R151: the SW unit of the machine, run over the synthetic pair from its initial state, counts 0
and then the ROM's entry, so the second count and the sum of both are the entry. -/
def Obligations.TableCorrectness : Prop :=
  (∀ (c : LutIndex) (ws : List CommandWord) (s : State) (r : Run),
    IsRunOf .sw [pairHi c, pairLo c] ws → runWords ws s = some r →
    procCounts .sw ws r.outputs = [0, (romRead State.reset.rom c).toNat] ∧
    (procCounts .sw ws r.outputs).sum = (romRead State.reset.rom c).toNat) ∧
  (∀ c : LutIndex, romRead State.reset.rom c = swCount (pairHi c) (pairLo c)) ∧
  (∀ c : LutIndex, swCount 0x00 (pairHi c) = 0)

/-- R146: under any command word, at any time. -/
def Obligations.RomNeverWritten : Prop :=
  (∀ (i : Instr) (s t : State), exec i s = .next t → t.rom = s.rom) ∧
  (∀ (ws : List CommandWord) (s : State) (r : Run), runWords ws s = some r →
    r.final.rom = s.rom ∧ ∀ a : LutIndex, romRead r.final.rom a = romRead s.rom a)

/-! ### Bounds -/

/-- R99. -/
def Obligations.StepCountBound : Prop :=
  (∀ (p : Pos) (b : Byte), (smScan p b).2.toNat ≤ 3) ∧
  (∀ p b : Byte, (swCount p b).toNat ≤ 3) ∧
  (∀ c : LutIndex, (romRead State.reset.rom c).toNat ≤ 3) ∧
  (∀ (S : List Byte) (n n' : Nat), occursAt S n = true → occursAt S n' = true → n < n' → n + 3 ≤ n') ∧
  stepCount 0b11 0x6D = 3 ∧ (∀ c : Context, c.getLsbD 0 = true → stepCount c 0xB6 = 3) ∧
  (∀ (c : Context) (b : Byte), stepCount c b = 3 ↔
    c ++ b ∈ ([0x1B6, 0x336, 0x366, 0x36C, 0x36D, 0x36E, 0x376, 0x3B6] : List LutIndex))

/-- R102. -/
def Obligations.TotalBound : Prop :=
  (∀ S : List Byte, total S ≤ 8 * S.length / 3) ∧
  (∀ (u : UnitId) (S : List Byte) (ws : List CommandWord) (s : State) (r : Run),
    RomBuilt s.rom → IsRunOf u S ws → runWords ws s = some r → portTotal u r ≤ 8 * S.length / 3) ∧
  (∀ (u : UnitId) (r : Run) (m n : Nat), m ≤ n →
    portTotal u { r with outputs := r.outputs.take m } ≤ portTotal u { r with outputs := r.outputs.take n })

/-! ### Decoding and encoding -/

/-- R78, over the masks and matches R77 prints. -/
def Obligations.DecodeTotalAndExclusive : Prop :=
  ∀ (w : CommandWord) (u : UnitId),
    (selectedRows u w).map OpRow.mnemonic = [(decodeUnit u w).mnemonic] ∧
    decodeUnit u w ∈ [.reset, .initOf u, .procOf u (w.extractLsb' 0 8), .holdOf u]

/-- R183. -/
def Obligations.PriorityWithinOneStep : Prop :=
  (∀ (w : CommandWord) (u : UnitId), w.getLsbD 14 = true → decodeUnit u w = .reset) ∧
  (∀ (w : CommandWord) (u : UnitId), w.getLsbD 14 = false → w.getLsbD (11 + u.number) = true →
    decodeUnit u w = .initOf u) ∧
  (∀ (w : CommandWord) (u : UnitId) (b : Byte), decodeUnit u w = .procOf u b ↔
    w.getLsbD 14 = false ∧ w.getLsbD (11 + u.number) = false ∧ w.getLsbD (8 + u.number) = true ∧
      b = w.extractLsb' 0 8) ∧
  (∀ (w : CommandWord) (u : UnitId) (s t : State),
    w.getLsbD 14 = true ∨ w.getLsbD (11 + u.number) = true → clockEdge w s = .next t →
    sameRegister u t State.reset ∧ t.cnt u = 0)

/-- R62: the selection, that it ignores the bits of the other units, and that each unit executes what it
selects in the same step. -/
def Obligations.DecodeIgnoresOtherUnits : Prop :=
  (∀ (w : CommandWord) (u : UnitId), decodeUnit u w =
    if w.getLsbD 14 then .reset
    else if w.getLsbD (11 + u.number) then .initOf u
    else if w.getLsbD (8 + u.number) then .procOf u (w.extractLsb' 0 8)
    else .holdOf u) ∧
  (∀ (w w' : CommandWord) (u : UnitId),
    w.getLsbD 14 = w'.getLsbD 14 → w.getLsbD (11 + u.number) = w'.getLsbD (11 + u.number) →
    w.getLsbD (8 + u.number) = w'.getLsbD (8 + u.number) → w.extractLsb' 0 8 = w'.extractLsb' 0 8 →
    decodeUnit u w = decodeUnit u w') ∧
  (∀ (w : CommandWord) (s t : State) (u : UnitId), clockEdge w s = .next t →
    Answers (exec (decodeUnit u w) s) fun a => agreeOn u a t)

/-- Decode and encode agree on every well-formed line of the trace notation, with every byte. -/
def Obligations.DecodeEncodeEveryLine : Prop :=
  ∀ t : TraceStep, t.wf = true → decode t.word = t.instrs

/-- The canonical word of a command word selects the same operations, and every bit it has is set in every
word that selects them: the ignored bits are 0 (R75). -/
def Obligations.CanonicalWordSelectsTheSame : Prop :=
  ∀ w : CommandWord, decode (canonical w) = decode w ∧
    ∀ w' : CommandWord, decode w' = decode w → canonical w' = canonical w ∧ canonical w &&& ~~~w' = 0

/-- R76. -/
def Obligations.PseudoOperations : Prop :=
  (∀ b : Byte, (feed b).word = 0x0700 ||| b.setWidth 15 ∧ (feed b).instrs = [.procSm b, .procSw b, .procLut b]) ∧
  (initAll.word = 0x3800 ∧ initAll.instrs = [.initSm, .initSw, .initLut] ∧
    ∀ s : State, clockEdge 0x3800 s = clockEdge 0x4000 s) ∧
  (TraceStep.nop.word = 0x0000 ∧ TraceStep.nop.instrs = [.holdSm, .holdSw, .holdLut]) ∧
  (∀ l : List Byte, (feedSeq l).map TraceStep.word = l.map fun b => 0x0700 ||| b.setWidth 15) ∧
  ((initializeCall .sm).word = 0x0800 ∧ (initializeCall .sw).word = 0x1000 ∧
    (initializeCall .lut).word = 0x2000) ∧
  ((initializeCall .sm).instrs = [.initSm, .holdSw, .holdLut] ∧
    (initializeCall .sw).instrs = [.holdSm, .initSw, .holdLut] ∧
    (initializeCall .lut).instrs = [.holdSm, .holdSw, .initLut]) ∧
  (∀ b : Byte, (processCall .sm b).instrs = [.procSm b, .holdSw, .holdLut] ∧
    (processCall .sw b).instrs = [.holdSm, .procSw b, .holdLut] ∧
    (processCall .lut b).instrs = [.holdSm, .holdSw, .procLut b]) ∧
  (∀ b : Byte, (processCall .sm b).word = 0x0100 ||| b.setWidth 15 ∧
    (processCall .sw b).word = 0x0200 ||| b.setWidth 15 ∧
    (processCall .lut b).word = 0x0400 ||| b.setWidth 15)

/-- Words written out from R60's bit layout, with what each unit does (`95_test_vectors.md` section 2). -/
def Obligations.SampleWordsDecode : Prop :=
  decode 0b000000000000000 = [.holdSm, .holdSw, .holdLut] ∧
  decode 0b100011111000000 = [.reset] ∧
  decode 0b011111111111111 = [.initSm, .initSw, .initLut] ∧
  decode 0b000011110101011 = [.procSm 0xAB, .procSw 0xAB, .procLut 0xAB] ∧
  decode 0b010111101010101 = [.initSm, .procSw 0x55, .initLut] ∧
  decode 0b010001110000000 = [.procSm 0x80, .procSw 0x80, .initLut]

/-! ### The step -/

/-- A step runs what the harness's next word decodes to, after taking the word from the queue, which is the
model's (log 1). -/
def Obligations.StepRunsDecoded : Prop :=
  (∀ (s : State) (w : CommandWord) (ws : List CommandWord), s.inputs = w :: ws →
    step s = runOps (decode w) { s with inputs := ws }) ∧
  (∀ (s : State) (w : CommandWord) (ws : List CommandWord) (i : Instr), s.inputs = w :: ws →
    decode w = [i] → step s = exec i { s with inputs := ws }) ∧
  (∀ (i : Instr) (l : List Instr) (s a : State), exec i s = .next a → runOps (i :: l) s = runOps l a)

/-- With no word queued the model's harness presents NOP: the model's choice, log 2. -/
def Obligations.StepWithNothingQueued : Prop :=
  ∀ s : State, s.inputs = [] → step s = .next { s with cntSm := 0, cntSw := 0, cntLut := 0 }

/-- R97: what a step leaves of each unit is what that unit's operation alone leaves of it, and the three
operations issued in three separate steps, in any order, give the same registers and the same counts. -/
def Obligations.UnitsActIndependently : Prop :=
  (∀ (w : CommandWord) (s t : State), clockEdge w s = .next t →
    ∀ u : UnitId, Answers (exec (decodeUnit u w) s) fun a => agreeOn u a t) ∧
  (∀ (w : CommandWord) (u : UnitId) (b : Byte), sampleOf u w = some b → b = w.extractLsb' 0 8) ∧
  (∀ (w : CommandWord) (s t : State) (order : List UnitId), w.getLsbD 14 = false →
    order.Perm [.sm, .sw, .lut] → clockEdge w s = .next t →
    ∃ r, runWords (order.map fun u => encode (decodeUnit u w)) s = some r ∧
      (∀ u : UnitId, sameRegister u r.final t) ∧
      (order.zip r.outputs).map (fun p => p.2.of p.1) = order.map t.cnt)

/-- When a step is refused and when it answers: exactly by U1, whose mark and refusal
are the model's (log 4); there is no fault (R180). -/
def Obligations.StepAnswersExactly : Prop :=
  ∀ (w : CommandWord) (s : State),
    ((∃ t, clockEdge w s = .next t) ↔ ∀ u : UnitId, (sampleOf u w).isSome = true → s.marked u = true) ∧
    (∀ r, clockEdge w s = .refused r →
      ∃ u, r = .uninitialised u ∧ (sampleOf u w).isSome = true ∧ s.marked u = false)

/-- R98: a unit that does not process shows 0; R63: bits 3 and 2 of each output are 0. -/
def Obligations.OutputsOfAStep : Prop :=
  (∀ (w : CommandWord) (s t : State) (u : UnitId), clockEdge w s = .next t → sampleOf u w = none → t.cnt u = 0) ∧
  (∀ (w : CommandWord) (s t : State), RomBuilt s.rom → clockEdge w s = .next t →
    t.resultWord &&& 0xCCC = 0 ∧
    t.resultWord = (t.cnt .lut).setWidth 12 <<< 8 ||| (t.cnt .sw).setWidth 12 <<< 4 ||| (t.cnt .sm).setWidth 12)

/-- R25 by operation: an operation of other units leaves `x[u]` and `cnt[u]` alone, and what an operation
does to its unit depends on no other unit's register. -/
def Obligations.RegisterOwnership : Prop :=
  (∀ (i : Instr) (u : UnitId) (s t : State), i.concerns u = false → exec i s = .next t → agreeOn u s t) ∧
  (∀ (i : Instr) (u : UnitId) (s s' t t' : State), i.concerns u = true → agreeOn u s s' →
    exec i s = .next t → exec i s' = .next t' → agreeOn u t t')

/-! ### The invariant and the reset values -/

/-- R32. -/
def Obligations.ValuesAfterInitialisation : Prop :=
  (∀ s : State, Answers (exec .reset s) fun t =>
    t.smPos = .p0 ∧ t.swPrev = 0x00 ∧ t.lutPrev = 0x00 ∧ t.rom = s.rom) ∧
  (∀ s : State, Answers (exec .initSm s) fun t => t.smPos = .p0 ∧ t.rom = s.rom) ∧
  (∀ s : State, Answers (exec .initSw s) fun t => t.swPrev = 0x00 ∧ t.rom = s.rom) ∧
  (∀ s : State, Answers (exec .initLut s) fun t => t.lutPrev = 0x00 ∧ t.rom = s.rom) ∧
  (State.reset.smPos = .p0 ∧ State.reset.swPrev = 0x00 ∧ State.reset.lutPrev = 0x00)

/-- The invariant holds at reset, and at power-up. The power-up state and the sparse form of the ROM are the
model's, log 6, log 8. -/
def Obligations.ResetMeetsTheInvariant : Prop := State.reset.Inv ∧ State.powerUp.Inv

/-- Every step keeps the invariant, from every state that has it. -/
def Obligations.StepKeepsTheInvariant : Prop :=
  ∀ s t : State, s.Inv → step s = .next t → t.Inv

/-- U1: a mark once set is never cleared, and an initialisation sets it. The marks are the model's, log 4. -/
def Obligations.MarksAreNeverCleared : Prop :=
  ∀ (w : CommandWord) (s t : State) (u : UnitId), clockEdge w s = .next t →
    t.marked u = (s.marked u || initsUnit u w)

/-- R205: a run is accepted exactly where the harness keeps its duty; from reset every run is. The
refusal is the model's, log 4. -/
def Obligations.RunsAcceptedByDuty : Prop :=
  (∀ (ws : List CommandWord) (s : State), (runWords ws s).isSome = obeysDuty s ws) ∧
  (∀ ws : List CommandWord, (runWords ws State.reset).isSome = true) ∧
  (∀ (ws : List CommandWord) (s : State), (runWords (0x4000 :: ws) s).isSome = true)

/-! ### Runs -/

/-- R34, for every run, from any state, that initialises the unit at least once. -/
def Obligations.RegistersAfterARun : Prop :=
  ∀ (ws : List CommandWord) (s : State) (r : Run), runWords ws s = some r →
    ((∃ w ∈ ws, initsUnit .sm w = true) → r.final.smPos = posOf (lastContext (streamAfter .sm [] ws))) ∧
    ((∃ w ∈ ws, initsUnit .sw w = true) → r.final.swPrev = lastSample (streamAfter .sw [] ws)) ∧
    ((∃ w ∈ ws, initsUnit .lut w = true) → r.final.lutPrev = lastSample (streamAfter .lut [] ws))

/-- R165. -/
def Obligations.StatesCorrespond : Prop :=
  ∀ (S : List Byte) (ws : List CommandWord) (s : State) (r : Run),
    (∀ u, IsRunOf u S ws) → runWords ws s = some r →
    (S = [] → r.final.smPos = .p0 ∧ r.final.swPrev = 0x00 ∧ r.final.lutPrev = 0x00) ∧
    (∀ (T : List Byte) (b : Byte), S = T ++ [b] → r.final.swPrev = b ∧ r.final.lutPrev = b ∧
      r.final.smPos = posOf (b.extractLsb' 0 2)) ∧
    r.final.smPos = posOf (r.final.swPrev.extractLsb' 0 2) ∧
    r.final.smPos = posOf (r.final.lutPrev.extractLsb' 0 2)

/-- R91: each step's count is the number of occurrences whose last bit lies within its sample. -/
def Obligations.CountsAreOccurrences : Prop :=
  ∀ (u : UnitId) (S : List Byte) (ws : List CommandWord) (s : State) (r : Run),
    RomBuilt s.rom → IsRunOf u S ws → runWords ws s = some r →
    procCounts u ws r.outputs = (List.range S.length).map (occurrencesEndingIn S)

/-- R92: every occurrence has its last bit in exactly one sample, each step counts the occurrences of its own
sample, and so the counts add up to the occurrences of the stream delivered. -/
def Obligations.EveryOccurrenceCountedOnce : Prop :=
  ∀ (u : UnitId) (S : List Byte) (ws : List CommandWord) (s : State) (r : Run),
    RomBuilt s.rom → IsRunOf u S ws → runWords ws s = some r →
    (∀ n, occursAt S n = true → ∃! j, j < S.length ∧ 8 * j ≤ n ∧ n < 8 * j + 8) ∧
    procCounts u ws r.outputs = (List.range S.length).map (occurrencesEndingIn S) ∧
    (procCounts u ws r.outputs).sum = occurrences S ∧ portTotal u r = occurrences S

/-- R161: the three units agree on the count of every single step, whatever runs they are given the same
samples in. -/
def Obligations.UnitsAgreeEveryStep : Prop :=
  ∀ (u v : UnitId) (S : List Byte) (ws vs : List CommandWord) (s t : State) (r q : Run),
    RomBuilt s.rom → RomBuilt t.rom → IsRunOf u S ws → IsRunOf v S vs →
    runWords ws s = some r → runWords vs t = some q →
    procCounts u ws r.outputs = procCounts v vs q.outputs

/-- R160: the totals are equal, and equal `TOTAL(S)`; the run that feeds all units exists from any state. -/
def Obligations.UnitsAgreeOnTotals : Prop :=
  (∀ (u v : UnitId) (S : List Byte) (ws vs : List CommandWord) (s t : State) (r q : Run),
    RomBuilt s.rom → RomBuilt t.rom → IsRunOf u S ws → IsRunOf v S vs →
    runWords ws s = some r → runWords vs t = some q →
    (procCounts u ws r.outputs).sum = (procCounts v vs q.outputs).sum ∧
    (procCounts u ws r.outputs).sum = total S) ∧
  (∀ (S : List Byte) (s : State),
    (∀ u, IsRunOf u S (0x4000 :: (feedSeq S).map TraceStep.word)) ∧
    ∃ r, runWords (0x4000 :: (feedSeq S).map TraceStep.word) s = some r)

/-- R162. -/
def Obligations.RunsAreDeterministic : Prop :=
  ∀ (u : UnitId) (S : List Byte) (ws vs : List CommandWord) (s t : State) (r q : Run),
    RomBuilt s.rom → RomBuilt t.rom → IsRunOf u S ws → IsRunOf u S vs →
    runWords ws s = some r → runWords vs t = some q →
    procCounts u ws r.outputs = procCounts u vs q.outputs ∧ sameRegister u r.final q.final

/-- R163: splitting a stream changes nothing, and an initialisation at the cut loses exactly the
occurrences that straddle it. -/
def Obligations.SplittingIsConsistent : Prop :=
  (∀ (u : UnitId) (S1 S2 : List Byte) (ws1 ws2 vs : List CommandWord) (s t : State) (r q : Run),
    RomBuilt s.rom → RomBuilt t.rom →
    IsRunOf u S1 ws1 → (∀ w ∈ ws2, initsUnit u w = false) → samplesOf u ws2 = S2 →
    IsRunOf u (S1 ++ S2) vs → runWords (ws1 ++ ws2) s = some r → runWords vs t = some q →
    procCounts u ws1 (r.outputs.take ws1.length) ++ procCounts u ws2 (r.outputs.drop ws1.length) =
      procCounts u vs q.outputs ∧
    portTotal u r = (procCounts u vs q.outputs).sum) ∧
  (∀ (u : UnitId) (S1 S2 : List Byte) (ws ws1 ws2 : List CommandWord) (s s1 s2 : State) (r r1 r2 : Run),
    RomBuilt s.rom → RomBuilt s1.rom → RomBuilt s2.rom →
    IsRunOf u (S1 ++ S2) ws → IsRunOf u S1 ws1 → IsRunOf u S2 ws2 →
    runWords ws s = some r → runWords ws1 s1 = some r1 → runWords ws2 s2 = some r2 →
    portTotal u r1 + portTotal u r2 ≤ portTotal u r ∧
    (portTotal u r1 + portTotal u r2 = portTotal u r ↔
      ∀ n, occursAt (S1 ++ S2) n = true → ¬(n - 2 < 8 * S1.length ∧ 8 * S1.length ≤ n)))

/-- R164. -/
def Obligations.EmptyInputCountsNothing : Prop :=
  ∀ (u : UnitId) (ws : List CommandWord) (s : State) (r : Run), IsRunOf u [] ws → runWords ws s = some r →
    portTotal u r = 0 ∧ ∀ c ∈ r.outputs, c.of u = 0

/-- R167, on every run of the two samples. -/
def Obligations.BoundaryCase : Prop :=
  (∀ (u : UnitId) (ws : List CommandWord) (s : State) (r : Run),
    RomBuilt s.rom → IsRunOf u [0xFF, 0x80] ws → runWords ws s = some r →
    procCounts u ws r.outputs = [0, 1] ∧ portTotal u r = 1) ∧
  (List.range 16).map (streamBit [0xFF, 0x80]) =
    List.replicate 9 true ++ List.replicate 7 false ∧
  (∀ n, occursAt [0xFF, 0x80] n = true ↔ n = 9)

/-- R168, on every run of the one sample. -/
def Obligations.SingleSampleCases : Prop :=
  ∀ (u : UnitId) (ws : List CommandWord) (s : State) (r : Run), RomBuilt s.rom → runWords ws s = some r →
    (IsRunOf u [0xC0] ws → procCounts u ws r.outputs = [1]) ∧
    (IsRunOf u [0x00] ws → procCounts u ws r.outputs = [0])

/-- R209: an initialisation in mid-stream starts a new stream. -/
def Obligations.InitialisationSeversContext : Prop :=
  (∀ (u : UnitId) (S : List Byte) (pre ws : List CommandWord) (s : State) (r : Run),
    RomBuilt s.rom → IsRunOf u S ws → runWords (pre ++ ws) s = some r →
    procCounts u ws (r.outputs.drop pre.length) = (List.range S.length).map (occurrencesEndingIn S)) ∧
  (∀ s : State, RomBuilt s.rom →
    ∃ r, runWords [0x4000, 0x0703, 0x2000, 0x0700] s = some r ∧ r.outputs.getLast? = some ⟨1, 1, 0⟩)

/-- R210: two runs whose non-idle operations of unit `u` are the same, in the same order, with any other
steps between them, give the same counts and the same register. -/
def Obligations.IdleStepsAreHarmless : Prop :=
  ∀ (u : UnitId) (ws vs : List CommandWord) (s t : State) (r q : Run),
    sameRegister u s t → s.rom = t.rom →
    (ws.map (decodeUnit u)).filter (fun i => !i.isHold) = (vs.map (decodeUnit u)).filter (fun i => !i.isHold) →
    runWords ws s = some r → runWords vs t = some q →
    procCounts u ws r.outputs = procCounts u vs q.outputs ∧ sameRegister u r.final q.final

/-- R25 over runs: what unit `u` shows in each step and what it is left with depend only on its own
operations and its own state, whatever the other units hold and are told. -/
def Obligations.OtherUnitsCannotInterfere : Prop :=
  ∀ (u : UnitId) (ws vs : List CommandWord) (s t : State) (r q : Run),
    agreeOn u s t → ws.map (decodeUnit u) = vs.map (decodeUnit u) →
    runWords ws s = some r → runWords vs t = some q →
    r.outputs.map (fun c => c.of u) = q.outputs.map (fun c => c.of u) ∧ agreeOn u r.final q.final

/-- R35: two states that differ only in bits 7 to 2 of `SW.prev` and of `LUT.prev` show the same outputs
for ever. -/
def Obligations.HighBitsOfPrevUnobservable : Prop :=
  ∀ (s : State) (p q : Byte) (ws : List CommandWord),
    p.extractLsb' 0 2 = s.swPrev.extractLsb' 0 2 → q.extractLsb' 0 2 = s.lutPrev.extractLsb' 0 2 →
    (runWords ws { s with swPrev := p, lutPrev := q }).map Run.outputs = (runWords ws s).map Run.outputs

/-- U1a: the value an uninitialised unit's register holds is seen by nothing. It rests on the refusal of
U1, log 4. -/
def Obligations.PowerUpValuesUnobservable : Prop :=
  ∀ (s : State) (p : Pos) (b c : Byte) (ws : List CommandWord),
    (runWords ws { s with
      smPos := if s.smMark then s.smPos else p
      swPrev := if s.swMark then s.swPrev else b
      lutPrev := if s.lutMark then s.lutPrev else c }).map Run.outputs = (runWords ws s).map Run.outputs
end

