-- ==== Sys2Proof/Laws/State.lean ====
section
/-! SUPPORT. One lemma per field per update of `State`, so that no later proof unfolds a record update. -/

namespace Sys2Proof.Machine

/-! ### `setPos` -/

@[simp] theorem State.setPos_smPos (s : State) (p : Pos) : (s.setPos p).smPos = p := rfl
@[simp] theorem State.setPos_swPrev (s : State) (p : Pos) : (s.setPos p).swPrev = s.swPrev := rfl
@[simp] theorem State.setPos_lutPrev (s : State) (p : Pos) : (s.setPos p).lutPrev = s.lutPrev := rfl
@[simp] theorem State.setPos_rom (s : State) (p : Pos) : (s.setPos p).rom = s.rom := rfl
@[simp] theorem State.setPos_smMark (s : State) (p : Pos) : (s.setPos p).smMark = s.smMark := rfl
@[simp] theorem State.setPos_swMark (s : State) (p : Pos) : (s.setPos p).swMark = s.swMark := rfl
@[simp] theorem State.setPos_lutMark (s : State) (p : Pos) : (s.setPos p).lutMark = s.lutMark := rfl
@[simp] theorem State.setPos_cntSm (s : State) (p : Pos) : (s.setPos p).cntSm = s.cntSm := rfl
@[simp] theorem State.setPos_cntSw (s : State) (p : Pos) : (s.setPos p).cntSw = s.cntSw := rfl
@[simp] theorem State.setPos_cntLut (s : State) (p : Pos) : (s.setPos p).cntLut = s.cntLut := rfl
@[simp] theorem State.setPos_inputs (s : State) (p : Pos) : (s.setPos p).inputs = s.inputs := rfl
@[simp] theorem State.setPos_marked (s : State) (p : Pos) (u : UnitId) : (s.setPos p).marked u = s.marked u := by cases u <;> rfl
@[simp] theorem State.setPos_cnt (s : State) (p : Pos) (u : UnitId) : (s.setPos p).cnt u = s.cnt u := by cases u <;> rfl

/-! ### `setSwPrev` -/

@[simp] theorem State.setSwPrev_smPos (s : State) (b : Byte) : (s.setSwPrev b).smPos = s.smPos := rfl
@[simp] theorem State.setSwPrev_swPrev (s : State) (b : Byte) : (s.setSwPrev b).swPrev = b := rfl
@[simp] theorem State.setSwPrev_lutPrev (s : State) (b : Byte) : (s.setSwPrev b).lutPrev = s.lutPrev := rfl
@[simp] theorem State.setSwPrev_rom (s : State) (b : Byte) : (s.setSwPrev b).rom = s.rom := rfl
@[simp] theorem State.setSwPrev_smMark (s : State) (b : Byte) : (s.setSwPrev b).smMark = s.smMark := rfl
@[simp] theorem State.setSwPrev_swMark (s : State) (b : Byte) : (s.setSwPrev b).swMark = s.swMark := rfl
@[simp] theorem State.setSwPrev_lutMark (s : State) (b : Byte) : (s.setSwPrev b).lutMark = s.lutMark := rfl
@[simp] theorem State.setSwPrev_cntSm (s : State) (b : Byte) : (s.setSwPrev b).cntSm = s.cntSm := rfl
@[simp] theorem State.setSwPrev_cntSw (s : State) (b : Byte) : (s.setSwPrev b).cntSw = s.cntSw := rfl
@[simp] theorem State.setSwPrev_cntLut (s : State) (b : Byte) : (s.setSwPrev b).cntLut = s.cntLut := rfl
@[simp] theorem State.setSwPrev_inputs (s : State) (b : Byte) : (s.setSwPrev b).inputs = s.inputs := rfl
@[simp] theorem State.setSwPrev_marked (s : State) (b : Byte) (u : UnitId) : (s.setSwPrev b).marked u = s.marked u := by cases u <;> rfl
@[simp] theorem State.setSwPrev_cnt (s : State) (b : Byte) (u : UnitId) : (s.setSwPrev b).cnt u = s.cnt u := by cases u <;> rfl

/-! ### `setLutPrev` -/

@[simp] theorem State.setLutPrev_smPos (s : State) (b : Byte) : (s.setLutPrev b).smPos = s.smPos := rfl
@[simp] theorem State.setLutPrev_swPrev (s : State) (b : Byte) : (s.setLutPrev b).swPrev = s.swPrev := rfl
@[simp] theorem State.setLutPrev_lutPrev (s : State) (b : Byte) : (s.setLutPrev b).lutPrev = b := rfl
@[simp] theorem State.setLutPrev_rom (s : State) (b : Byte) : (s.setLutPrev b).rom = s.rom := rfl
@[simp] theorem State.setLutPrev_smMark (s : State) (b : Byte) : (s.setLutPrev b).smMark = s.smMark := rfl
@[simp] theorem State.setLutPrev_swMark (s : State) (b : Byte) : (s.setLutPrev b).swMark = s.swMark := rfl
@[simp] theorem State.setLutPrev_lutMark (s : State) (b : Byte) : (s.setLutPrev b).lutMark = s.lutMark := rfl
@[simp] theorem State.setLutPrev_cntSm (s : State) (b : Byte) : (s.setLutPrev b).cntSm = s.cntSm := rfl
@[simp] theorem State.setLutPrev_cntSw (s : State) (b : Byte) : (s.setLutPrev b).cntSw = s.cntSw := rfl
@[simp] theorem State.setLutPrev_cntLut (s : State) (b : Byte) : (s.setLutPrev b).cntLut = s.cntLut := rfl
@[simp] theorem State.setLutPrev_inputs (s : State) (b : Byte) : (s.setLutPrev b).inputs = s.inputs := rfl
@[simp] theorem State.setLutPrev_marked (s : State) (b : Byte) (u : UnitId) : (s.setLutPrev b).marked u = s.marked u := by cases u <;> rfl
@[simp] theorem State.setLutPrev_cnt (s : State) (b : Byte) (u : UnitId) : (s.setLutPrev b).cnt u = s.cnt u := by cases u <;> rfl

/-! ### `setCnt` -/

@[simp] theorem State.setCnt_sm_cntSm (s : State) (n : Count) : (s.setCnt .sm n).cntSm = n := rfl
@[simp] theorem State.setCnt_sm_cntSw (s : State) (n : Count) : (s.setCnt .sm n).cntSw = s.cntSw := rfl
@[simp] theorem State.setCnt_sm_cntLut (s : State) (n : Count) : (s.setCnt .sm n).cntLut = s.cntLut := rfl
@[simp] theorem State.setCnt_sw_cntSm (s : State) (n : Count) : (s.setCnt .sw n).cntSm = s.cntSm := rfl
@[simp] theorem State.setCnt_sw_cntSw (s : State) (n : Count) : (s.setCnt .sw n).cntSw = n := rfl
@[simp] theorem State.setCnt_sw_cntLut (s : State) (n : Count) : (s.setCnt .sw n).cntLut = s.cntLut := rfl
@[simp] theorem State.setCnt_lut_cntSm (s : State) (n : Count) : (s.setCnt .lut n).cntSm = s.cntSm := rfl
@[simp] theorem State.setCnt_lut_cntSw (s : State) (n : Count) : (s.setCnt .lut n).cntSw = s.cntSw := rfl
@[simp] theorem State.setCnt_lut_cntLut (s : State) (n : Count) : (s.setCnt .lut n).cntLut = n := rfl
@[simp] theorem State.setCnt_smPos (s : State) (u : UnitId) (n : Count) : (s.setCnt u n).smPos = s.smPos := by cases u <;> rfl
@[simp] theorem State.setCnt_swPrev (s : State) (u : UnitId) (n : Count) : (s.setCnt u n).swPrev = s.swPrev := by cases u <;> rfl
@[simp] theorem State.setCnt_lutPrev (s : State) (u : UnitId) (n : Count) : (s.setCnt u n).lutPrev = s.lutPrev := by cases u <;> rfl
@[simp] theorem State.setCnt_rom (s : State) (u : UnitId) (n : Count) : (s.setCnt u n).rom = s.rom := by cases u <;> rfl
@[simp] theorem State.setCnt_smMark (s : State) (u : UnitId) (n : Count) : (s.setCnt u n).smMark = s.smMark := by cases u <;> rfl
@[simp] theorem State.setCnt_swMark (s : State) (u : UnitId) (n : Count) : (s.setCnt u n).swMark = s.swMark := by cases u <;> rfl
@[simp] theorem State.setCnt_lutMark (s : State) (u : UnitId) (n : Count) : (s.setCnt u n).lutMark = s.lutMark := by cases u <;> rfl
@[simp] theorem State.setCnt_inputs (s : State) (u : UnitId) (n : Count) : (s.setCnt u n).inputs = s.inputs := by cases u <;> rfl
@[simp] theorem State.setCnt_marked (s : State) (u v : UnitId) (n : Count) : (s.setCnt u n).marked v = s.marked v := by cases u <;> cases v <;> rfl
@[simp] theorem State.setCnt_cnt (s : State) (u v : UnitId) (n : Count) : (s.setCnt u n).cnt v = if v = u then n else s.cnt v := by
  cases u <;> cases v <;> rfl

/-! ### `setMark` -/

@[simp] theorem State.setMark_sm_smMark (s : State) : (s.setMark .sm).smMark = true := rfl
@[simp] theorem State.setMark_sm_swMark (s : State) : (s.setMark .sm).swMark = s.swMark := rfl
@[simp] theorem State.setMark_sm_lutMark (s : State) : (s.setMark .sm).lutMark = s.lutMark := rfl
@[simp] theorem State.setMark_sw_smMark (s : State) : (s.setMark .sw).smMark = s.smMark := rfl
@[simp] theorem State.setMark_sw_swMark (s : State) : (s.setMark .sw).swMark = true := rfl
@[simp] theorem State.setMark_sw_lutMark (s : State) : (s.setMark .sw).lutMark = s.lutMark := rfl
@[simp] theorem State.setMark_lut_smMark (s : State) : (s.setMark .lut).smMark = s.smMark := rfl
@[simp] theorem State.setMark_lut_swMark (s : State) : (s.setMark .lut).swMark = s.swMark := rfl
@[simp] theorem State.setMark_lut_lutMark (s : State) : (s.setMark .lut).lutMark = true := rfl
@[simp] theorem State.setMark_smPos (s : State) (u : UnitId) : (s.setMark u).smPos = s.smPos := by cases u <;> rfl
@[simp] theorem State.setMark_swPrev (s : State) (u : UnitId) : (s.setMark u).swPrev = s.swPrev := by cases u <;> rfl
@[simp] theorem State.setMark_lutPrev (s : State) (u : UnitId) : (s.setMark u).lutPrev = s.lutPrev := by cases u <;> rfl
@[simp] theorem State.setMark_rom (s : State) (u : UnitId) : (s.setMark u).rom = s.rom := by cases u <;> rfl
@[simp] theorem State.setMark_cntSm (s : State) (u : UnitId) : (s.setMark u).cntSm = s.cntSm := by cases u <;> rfl
@[simp] theorem State.setMark_cntSw (s : State) (u : UnitId) : (s.setMark u).cntSw = s.cntSw := by cases u <;> rfl
@[simp] theorem State.setMark_cntLut (s : State) (u : UnitId) : (s.setMark u).cntLut = s.cntLut := by cases u <;> rfl
@[simp] theorem State.setMark_inputs (s : State) (u : UnitId) : (s.setMark u).inputs = s.inputs := by cases u <;> rfl
@[simp] theorem State.setMark_marked (s : State) (u v : UnitId) : (s.setMark u).marked v = (v == u || s.marked v) := by
  cases u <;> cases v <;> rfl
@[simp] theorem State.setMark_cnt (s : State) (u v : UnitId) : (s.setMark u).cnt v = s.cnt v := by cases u <;> cases v <;> rfl

/-! ### `initSm` -/

@[simp] theorem State.initSm_smPos (s : State) : s.initSm.smPos = .p0 := rfl
@[simp] theorem State.initSm_swPrev (s : State) : s.initSm.swPrev = s.swPrev := rfl
@[simp] theorem State.initSm_lutPrev (s : State) : s.initSm.lutPrev = s.lutPrev := rfl
@[simp] theorem State.initSm_rom (s : State) : s.initSm.rom = s.rom := rfl
@[simp] theorem State.initSm_smMark (s : State) : s.initSm.smMark = true := rfl
@[simp] theorem State.initSm_swMark (s : State) : s.initSm.swMark = s.swMark := rfl
@[simp] theorem State.initSm_lutMark (s : State) : s.initSm.lutMark = s.lutMark := rfl
@[simp] theorem State.initSm_cntSm (s : State) : s.initSm.cntSm = 0 := rfl
@[simp] theorem State.initSm_cntSw (s : State) : s.initSm.cntSw = s.cntSw := rfl
@[simp] theorem State.initSm_cntLut (s : State) : s.initSm.cntLut = s.cntLut := rfl
@[simp] theorem State.initSm_inputs (s : State) : s.initSm.inputs = s.inputs := rfl
@[simp] theorem State.initSm_marked (s : State) (v : UnitId) : s.initSm.marked v = (v == .sm || s.marked v) := by
  cases v <;> rfl
@[simp] theorem State.initSm_cnt (s : State) (v : UnitId) : s.initSm.cnt v = if v = .sm then 0 else s.cnt v := by
  cases v <;> rfl

/-! ### `initSw` -/

@[simp] theorem State.initSw_smPos (s : State) : s.initSw.smPos = s.smPos := rfl
@[simp] theorem State.initSw_swPrev (s : State) : s.initSw.swPrev = 0x00 := rfl
@[simp] theorem State.initSw_lutPrev (s : State) : s.initSw.lutPrev = s.lutPrev := rfl
@[simp] theorem State.initSw_rom (s : State) : s.initSw.rom = s.rom := rfl
@[simp] theorem State.initSw_smMark (s : State) : s.initSw.smMark = s.smMark := rfl
@[simp] theorem State.initSw_swMark (s : State) : s.initSw.swMark = true := rfl
@[simp] theorem State.initSw_lutMark (s : State) : s.initSw.lutMark = s.lutMark := rfl
@[simp] theorem State.initSw_cntSm (s : State) : s.initSw.cntSm = s.cntSm := rfl
@[simp] theorem State.initSw_cntSw (s : State) : s.initSw.cntSw = 0 := rfl
@[simp] theorem State.initSw_cntLut (s : State) : s.initSw.cntLut = s.cntLut := rfl
@[simp] theorem State.initSw_inputs (s : State) : s.initSw.inputs = s.inputs := rfl
@[simp] theorem State.initSw_marked (s : State) (v : UnitId) : s.initSw.marked v = (v == .sw || s.marked v) := by
  cases v <;> rfl
@[simp] theorem State.initSw_cnt (s : State) (v : UnitId) : s.initSw.cnt v = if v = .sw then 0 else s.cnt v := by
  cases v <;> rfl

/-! ### `initLut` -/

@[simp] theorem State.initLut_smPos (s : State) : s.initLut.smPos = s.smPos := rfl
@[simp] theorem State.initLut_swPrev (s : State) : s.initLut.swPrev = s.swPrev := rfl
@[simp] theorem State.initLut_lutPrev (s : State) : s.initLut.lutPrev = 0x00 := rfl
@[simp] theorem State.initLut_rom (s : State) : s.initLut.rom = s.rom := rfl
@[simp] theorem State.initLut_smMark (s : State) : s.initLut.smMark = s.smMark := rfl
@[simp] theorem State.initLut_swMark (s : State) : s.initLut.swMark = s.swMark := rfl
@[simp] theorem State.initLut_lutMark (s : State) : s.initLut.lutMark = true := rfl
@[simp] theorem State.initLut_cntSm (s : State) : s.initLut.cntSm = s.cntSm := rfl
@[simp] theorem State.initLut_cntSw (s : State) : s.initLut.cntSw = s.cntSw := rfl
@[simp] theorem State.initLut_cntLut (s : State) : s.initLut.cntLut = 0 := rfl
@[simp] theorem State.initLut_inputs (s : State) : s.initLut.inputs = s.inputs := rfl
@[simp] theorem State.initLut_marked (s : State) (v : UnitId) : s.initLut.marked v = (v == .lut || s.marked v) := by
  cases v <;> rfl
@[simp] theorem State.initLut_cnt (s : State) (v : UnitId) : s.initLut.cnt v = if v = .lut then 0 else s.cnt v := by
  cases v <;> rfl

/-! ### accessors at the three units -/

@[simp] theorem State.cnt_sm (s : State) : s.cnt .sm = s.cntSm := rfl
@[simp] theorem State.marked_sm (s : State) : s.marked .sm = s.smMark := rfl
@[simp] theorem State.cnt_sw (s : State) : s.cnt .sw = s.cntSw := rfl
@[simp] theorem State.marked_sw (s : State) : s.marked .sw = s.swMark := rfl
@[simp] theorem State.cnt_lut (s : State) : s.cnt .lut = s.cntLut := rfl
@[simp] theorem State.marked_lut (s : State) : s.marked .lut = s.lutMark := rfl

end Sys2Proof.Machine
end

