-- ==== Sys2Proof/Laws/Exec.lean ====
section
/-! SUPPORT. What each shared operation of the units, each operation of the table and the clock edge can
do, said once: the lemmas proofs cite instead of unfolding. -/

namespace Sys2Proof.Machine

/-! ### The shared operations -/

/-- A `PROC` answers a next state exactly on an initialised unit, and then it is the effect's. -/
theorem procUnit_next {u : UnitId} {f : State → State} {s t : State} :
    procUnit u f s = .next t ↔ s.marked u = true ∧ t = f s := by
  unfold procUnit
  cases h : s.marked u <;> simp [eq_comm]

/-- A `PROC` is refused exactly on a unit never initialised, under that unit's name. -/
theorem procUnit_refused {u : UnitId} {f : State → State} {s : State} {r : Refusal} :
    procUnit u f s = .refused r ↔ s.marked u = false ∧ r = .uninitialised u := by
  unfold procUnit
  cases h : s.marked u <;> simp [eq_comm]

/-- A `HOLD` always answers, and only drives the unit's output to 0. -/
theorem holdUnit_next {u : UnitId} {s t : State} : holdUnit u s = .next t ↔ t = s.setCnt u 0 := by
  simp [holdUnit, eq_comm]

/-! ### The operations of the table -/

@[simp] theorem exec_reset (s : State) : exec .reset s = .next s.initSm.initSw.initLut := rfl
@[simp] theorem exec_initSm (s : State) : exec .initSm s = .next s.initSm := rfl
@[simp] theorem exec_initSw (s : State) : exec .initSw s = .next s.initSw := rfl
@[simp] theorem exec_initLut (s : State) : exec .initLut s = .next s.initLut := rfl
@[simp] theorem exec_holdSm (s : State) : exec .holdSm s = .next (s.setCnt .sm 0) := rfl
@[simp] theorem exec_holdSw (s : State) : exec .holdSw s = .next (s.setCnt .sw 0) := rfl
@[simp] theorem exec_holdLut (s : State) : exec .holdLut s = .next (s.setCnt .lut 0) := rfl

theorem exec_procSm (b : Byte) (s : State) :
    exec (.procSm b) s =
      procUnit .sm (fun t => (t.setCnt .sm (smScan t.smPos b).2).setPos (smScan t.smPos b).1) s := rfl

theorem exec_procSw (b : Byte) (s : State) :
    exec (.procSw b) s =
      procUnit .sw (fun t => (t.setCnt .sw (swCount t.swPrev b)).setSwPrev b) s := rfl

theorem exec_procLut (b : Byte) (s : State) :
    exec (.procLut b) s =
      procUnit .lut (fun t => (t.setCnt .lut (romRead t.rom (lutIndex t.lutPrev b))).setLutPrev b) s := rfl

/-! ### Several operations in one step -/

@[simp] theorem runOps_nil (s : State) : runOps [] s = .next s := rfl

/-- A list of operations answers exactly where its first operation answers and the rest answer from
there. -/
theorem runOps_cons_next {i : Instr} {l : List Instr} {s t : State} :
    runOps (i :: l) s = .next t ↔ ∃ a, exec i s = .next a ∧ runOps l a = .next t := by
  simp only [runOps]
  cases exec i s <;> simp

/-! ### The word a step takes -/

/-- The head of the queue is the word taken. -/
@[simp] theorem takeWord_cons (s : State) (w : CommandWord) (ws : List CommandWord) :
    takeWord { s with inputs := w :: ws } = (w, { s with inputs := ws }) := rfl

/-- `takeWord` on a state whose queue is known. -/
theorem takeWord_of_cons {s : State} {w : CommandWord} {ws : List CommandWord} (h : s.inputs = w :: ws) :
    takeWord s = (w, { s with inputs := ws }) := by
  simp [takeWord, h]

/-- With nothing queued the word taken is `NOP` and the state is unchanged. -/
theorem takeWord_of_nil {s : State} (h : s.inputs = []) : takeWord s = (0x0000, s) := by
  simp [takeWord, h]

end Sys2Proof.Machine
end

