-- ==== Sys2Proof/Laws/PerInstr.lean ====
section
/-! SUPPORT. Statements about every operation as syntax, one lemma per constructor. -/

namespace Sys2Proof.Laws.EncodingRoundTrip

/-- Every unit an operation concerns reads the operation back from its canonical word, its sample at
every value (R62, R75, R77). -/
def Statement (i : Instr) : Prop := ∀ u, i.concerns u = true → decodeUnit u (encode i) = i

theorem reset : Statement .reset := by intro u _; cases u <;> decide
theorem initSm : Statement .initSm := by intro u h; cases u <;> revert h <;> decide
theorem initSw : Statement .initSw := by intro u h; cases u <;> revert h <;> decide
theorem initLut : Statement .initLut := by intro u h; cases u <;> revert h <;> decide
theorem procSm (b : Byte) : Statement (.procSm b) := by
  intro u h; cases u <;> simp [Instr.concerns] at h; revert b; decide +kernel
theorem procSw (b : Byte) : Statement (.procSw b) := by
  intro u h; cases u <;> simp [Instr.concerns] at h; revert b; decide +kernel
theorem procLut (b : Byte) : Statement (.procLut b) := by
  intro u h; cases u <;> simp [Instr.concerns] at h; revert b; decide +kernel
theorem holdSm : Statement .holdSm := by intro u h; cases u <;> revert h <;> decide
theorem holdSw : Statement .holdSw := by intro u h; cases u <;> revert h <;> decide
theorem holdLut : Statement .holdLut := by intro u h; cases u <;> revert h <;> decide

end Sys2Proof.Laws.EncodingRoundTrip
end

