-- ==== Sys2Proof/Laws/Rom.lean ====
section
/-! SUPPORT. The laws of the ROM as a memory: what a read gives after a write, and that every memory
operation keeps the canonical form. -/

namespace Sys2Proof.Machine

/-- An unlisted ROM reads as the built table (R140). -/
@[simp] theorem romRead_nil (a : LutIndex) : romRead [] a = builtEntry a := by
  simp [romRead, romDefault]

theorem romRead_cons (b : Nat) (w : Count) (m : Rom) (a : LutIndex) :
    romRead ((b, w) :: m) a = if a.toNat = b then w else romRead m a := by
  by_cases h : a.toNat = b
  · simp [romRead, h]
  · have : (a.toNat == b) = false := by simpa using h
    simp [romRead, List.lookup_cons, h, this]

/-- Weakening the lower bound of the canonical form. -/
theorem romWfFrom_mono {lo lo' : Nat} {m : Rom} (h : romWfFrom lo m = true) (hle : lo' ≤ lo) :
    romWfFrom lo' m = true := by
  cases m with
  | nil => rfl
  | cons p m =>
    obtain ⟨a, v⟩ := p
    simp only [romWfFrom, Bool.and_eq_true, decide_eq_true_eq] at h ⊢
    exact ⟨⟨⟨by omega, h.1.1.2⟩, h.1.2⟩, h.2⟩

/-- Nothing below the lower bound is listed. -/
theorem romRead_below {lo : Nat} {m : Rom} (h : romWfFrom lo m = true) {a : LutIndex}
    (ha : a.toNat < lo) : romRead m a = builtEntry a := by
  induction m generalizing lo with
  | nil => simp
  | cons p m ih =>
    obtain ⟨b, w⟩ := p
    simp only [romWfFrom, Bool.and_eq_true, decide_eq_true_eq] at h
    rw [romRead_cons, if_neg (by omega)]
    exact ih h.2 (by omega)

theorem romRead_cell (a c : LutIndex) (v : Count) :
    romRead (romCell a v) c = if c = a then v else builtEntry c := by
  unfold romCell
  by_cases hv : v = romDefault a.toNat
  · by_cases hc : c = a
    · subst hc; simp [hv, romDefault]
    · simp [hv, hc]
  · rw [if_neg hv, romRead_cons, romRead_nil]
    simp [BitVec.toNat_inj]

theorem romRead_cell_append (a c : LutIndex) (v : Count) (m : Rom)
    (hm : c = a → romRead m c = builtEntry c) :
    romRead (romCell a v ++ m) c = if c = a then v else romRead m c := by
  unfold romCell
  by_cases hv : v = romDefault a.toNat
  · by_cases hc : c = a
    · have := hm hc
      subst hc; simp [hv, this, romDefault]
    · simp [hv, hc]
  · rw [if_neg hv, List.singleton_append, romRead_cons]
    simp [BitVec.toNat_inj]

/-- A read after a write gives the value written at the address written and leaves every other entry
alone. -/
theorem romRead_romWrite {lo : Nat} {m : Rom} (h : romWfFrom lo m = true) (a c : LutIndex) (v : Count) :
    romRead (romWrite m a v) c = if c = a then v else romRead m c := by
  induction m generalizing lo with
  | nil => simp [romWrite, romRead_cell]
  | cons p m ih =>
    obtain ⟨b, w⟩ := p
    simp only [romWfFrom, Bool.and_eq_true, decide_eq_true_eq] at h
    rw [romWrite]
    by_cases h1 : a.toNat < b
    · rw [if_pos h1]
      apply romRead_cell_append
      intro hc; subst hc
      rw [romRead_cons, if_neg (by omega)]
      exact romRead_below h.2 (by omega)
    rw [if_neg h1]
    by_cases h2 : a.toNat = b
    · have hb := romRead_below h.2 (a := a) (by omega)
      rw [if_pos h2, romRead_cell_append a c v m (fun hc => hc ▸ hb), romRead_cons]
      by_cases hc : c = a
      · simp [hc]
      · have : c.toNat ≠ b := fun e => hc (BitVec.toNat_inj.mp (by omega))
        simp [hc, this]
    · rw [if_neg h2, romRead_cons, romRead_cons, ih h.2]
      by_cases hc : c = a
      · subst hc; simp [h2]
      · simp [hc]

theorem romWfFrom_cell_append {lo : Nat} {m : Rom} {a : LutIndex} (v : Count) (hlo : lo ≤ a.toNat)
    (h : romWfFrom (a.toNat + 1) m = true) : romWfFrom lo (romCell a v ++ m) = true := by
  unfold romCell
  by_cases hv : v = romDefault a.toNat
  · simpa [hv] using romWfFrom_mono h (by omega)
  · have := a.isLt
    simp [hv, romWfFrom, hlo, h, Config.lutDepth, this]

/-- A write keeps the canonical form. -/
theorem romWrite_wfFrom {lo : Nat} {m : Rom} (h : romWfFrom lo m = true) (a : LutIndex) (v : Count)
    (hlo : lo ≤ a.toNat) : romWfFrom lo (romWrite m a v) = true := by
  induction m generalizing lo with
  | nil => simpa [romWrite] using romWfFrom_cell_append (m := []) v hlo rfl
  | cons p m ih =>
    obtain ⟨b, w⟩ := p
    have h' := h
    simp only [romWfFrom, Bool.and_eq_true, decide_eq_true_eq] at h
    unfold romWrite
    split_ifs with h1 h2
    · refine romWfFrom_cell_append v hlo ?_
      simp only [romWfFrom, Bool.and_eq_true, decide_eq_true_eq]
      exact ⟨⟨⟨by omega, h.1.1.2⟩, h.1.2⟩, h.2⟩
    · exact romWfFrom_cell_append v hlo (h2 ▸ h.2)
    · simp only [romWfFrom, Bool.and_eq_true, decide_eq_true_eq]
      exact ⟨⟨⟨h.1.1.1, h.1.1.2⟩, h.1.2⟩, ih h.2 (by omega)⟩

/-- A write keeps the canonical form of the ROM. -/
theorem romWrite_wf {m : Rom} (h : Rom.wf m = true) (a : LutIndex) (v : Count) :
    Rom.wf (romWrite m a v) = true :=
  romWrite_wfFrom h a v (Nat.zero_le _)

/-- The build keeps the canonical form. -/
theorem lutBuild_wf {m : Rom} (h : Rom.wf m = true) : Rom.wf (lutBuild m) = true := by
  have key : ∀ (l : List Nat) (r : Rom), Rom.wf r = true →
      Rom.wf (l.foldl (fun r c => romWrite r (BitVec.ofNat 10 c)
        (swCount (pairHi (BitVec.ofNat 10 c)) (pairLo (BitVec.ofNat 10 c)))) r) = true := by
    intro l
    induction l with
    | nil => exact fun _ h => h
    | cons c l ih => exact fun r hr => ih _ (romWrite_wf hr _ _)
  exact key _ _ h

/-- The reset state's ROM has the canonical form. -/
theorem reset_rom_wf : Rom.wf State.reset.rom = true := rfl

end Sys2Proof.Machine
end

