-- ==== Sys2Proof/Tests/Slice0.lean ====
section
/-! SUPPORT. The model's own tests. The expected values are those `spec/95_test_vectors.md` prints (its row ids
stand in the comments) or are computed by hand from the rule cited; every test is one step, or a witness that
the hypotheses of a statement of `Certificates/Slice0/Obligations.lean` can be met together. -/

namespace Sys2Proof.Tests

open Sys2Proof Sys2Proof.Machine

/-! ### Helpers -/

/-- The next state of an outcome, if it is one. -/
def nextOf (o : Host.Outcome State Fault Refusal) : Option State :=
  match o with
  | .next t => some t
  | .fault _ => none
  | .refused _ => none

/-- The reason of a refusal, if the outcome is one. -/
def refusalOf (o : Host.Outcome State Fault Refusal) : Option Refusal :=
  match o with
  | .next _ => none
  | .fault _ => none
  | .refused r => some r

/-- An initialised block with the three registers given. -/
def block (p : Pos) (sw lut : Byte) : State := { State.reset with smPos := p, swPrev := sw, lutPrev := lut }

/-- Registers and outputs: what a row of the test vectors shows. -/
structure Shown where
  pos : Pos
  sw : Byte
  lut : Byte
  cnts : Counts
  deriving DecidableEq, Repr

/-- What a state shows. -/
def shown (s : State) : Shown := ⟨s.smPos, s.swPrev, s.lutPrev, s.outputs⟩

/-- What one clock edge shows. -/
def edgeShows (w : CommandWord) (s : State) : Option Shown :=
  (nextOf (clockEdge w s)).map shown

theorem next_of_isSome {o : Host.Outcome State Fault Refusal} (h : (nextOf o).isSome = true) :
    ∃ t, o = .next t := by
  cases o with
  | next t => exact ⟨t, rfl⟩
  | fault r => cases h
  | refused r => cases h

theorem run_of_isSome {o : Option Run} (h : o.isSome = true) : ∃ r, o = some r := Option.isSome_iff_exists.1 h

/-- Words none of which initialises a unit. -/
theorem no_init {u : UnitId} {ws : List CommandWord} (h : ws.all (fun x => !initsUnit u x) = true) :
    ∀ w ∈ ws, initsUnit u w = false := by
  simpa only [List.all_eq_true, Bool.not_eq_true'] using h

/-- A run given word by word. -/
theorem isRunOf_cons {u : UnitId} {S : List Byte} {w : CommandWord} {rest : List CommandWord}
    (h : (initsUnit u w && rest.all (fun x => !initsUnit u x) && samplesOf u rest == S) = true) :
    IsRunOf u S (w :: rest) := by
  simp only [Bool.and_eq_true, List.all_eq_true, Bool.not_eq_true', beq_iff_eq] at h
  exact ⟨w, rest, rfl, h.1.1, h.1.2, h.2⟩

/-! ### Decoding: words written out bit by bit, `{rst, init[2:0], en[2:0], din[7:0]}` -/

/-- E3, E4, E5: `rst` beats everything. -/
theorem test_decode_reset :
    decode 0b100000000000000 = [.reset] ∧ decode 0b111111111111111 = [.reset] ∧
    decode 0b100011111000000 = [.reset] := by decide

/-- E8, E15: `init[0]`, alone and with `en[0]`. -/
theorem test_decode_init_sm :
    decode 0b000100000000000 = [.initSm, .holdSw, .holdLut] ∧
    decode 0b000100111000000 = [.initSm, .holdSw, .holdLut] := by decide

/-- E9, E17: `init[1]`. -/
theorem test_decode_init_sw :
    decode 0b001000000000000 = [.holdSm, .initSw, .holdLut] ∧
    decode 0b001001001010101 = [.holdSm, .initSw, .holdLut] := by decide

/-- E10, E21: `init[2]`. -/
theorem test_decode_init_lut :
    decode 0b010000000000000 = [.holdSm, .holdSw, .initLut] ∧
    decode 0b011000000000000 = [.holdSm, .initSw, .initLut] := by decide

/-- E11, and `PROC.SM 0xC0` of R75. -/
theorem test_decode_proc_sm :
    decode 0b000000100000000 = [.procSm 0x00, .holdSw, .holdLut] ∧
    decode 0b000000111000000 = [.procSm 0xC0, .holdSw, .holdLut] := by decide

/-- E12, and `PROC.SW 0xC0` of P7. -/
theorem test_decode_proc_sw :
    decode 0b000001000000000 = [.holdSm, .procSw 0x00, .holdLut] ∧
    decode 0b000001011000000 = [.holdSm, .procSw 0xC0, .holdLut] := by decide

/-- E13, and `PROC.LUT 0x80` of P4. -/
theorem test_decode_proc_lut :
    decode 0b000010000000000 = [.holdSm, .holdSw, .procLut 0x00] ∧
    decode 0b000010010000000 = [.holdSm, .holdSw, .procLut 0x80] := by decide

/-- E1, E2: nothing requested; `din` ignored. -/
theorem test_decode_hold :
    decode 0b000000000000000 = [.holdSm, .holdSw, .holdLut] ∧
    decode 0b000000011111111 = [.holdSm, .holdSw, .holdLut] := by decide

/-- E6, E7, E14, E16, E18, E19, E20: several units in one word. -/
theorem test_decode_several :
    decode 0b011100000000000 = [.initSm, .initSw, .initLut] ∧
    decode 0b011111111111111 = [.initSm, .initSw, .initLut] ∧
    decode 0b000011110101011 = [.procSm 0xAB, .procSw 0xAB, .procLut 0xAB] ∧
    decode 0b010111101010101 = [.initSm, .procSw 0x55, .initLut] ∧
    decode 0b000010110000000 = [.procSm 0x80, .holdSw, .procLut 0x80] ∧
    decode 0b010001110000000 = [.procSm 0x80, .procSw 0x80, .initLut] ∧
    decode 0b000111000000000 = [.initSm, .procSw 0x00, .procLut 0x00] := by decide

/-- The ten rows of R77 as the table prints them. -/
theorem test_operation_map :
    opTable.map (fun r => (r.mnemonic, r.mask.toNat, r.pattern.toNat)) =
      [("RESET", 0x4000, 0x4000), ("INIT.SM", 0x4800, 0x0800), ("INIT.SW", 0x5000, 0x1000),
       ("INIT.LUT", 0x6000, 0x2000), ("PROC.SM", 0x4900, 0x0100), ("PROC.SW", 0x5200, 0x0200),
       ("PROC.LUT", 0x6400, 0x0400), ("HOLD.SM", 0x4900, 0x0000), ("HOLD.SW", 0x5200, 0x0000),
       ("HOLD.LUT", 0x6400, 0x0000)] := by decide

/-- The word a raw number is named by, for each row (the three `HOLD` rows share the word 0); bit 15 is
no input wire. -/
theorem test_table_words :
    decodeTableWord 16 0x4000 = some .reset ∧ decodeTableWord 16 0x0800 = some .initSm ∧
    decodeTableWord 16 0x1000 = some .initSw ∧ decodeTableWord 16 0x2000 = some .initLut ∧
    decodeTableWord 16 0x01C0 = some (.procSm 0xC0) ∧ decodeTableWord 16 0x02C0 = some (.procSw 0xC0) ∧
    decodeTableWord 16 0x0480 = some (.procLut 0x80) ∧ decodeTableWord 16 0x0000 = some .holdSm ∧
    decodeTableWord 16 0x8000 = none := by decide

/-- The next step runs the word presented. -/
theorem test_fetch_word : (nextOf (step (State.reset.withFetchWord 16 0x01C0))).map shown =
    some ⟨.p0, 0x00, 0x00, ⟨1, 0, 0⟩⟩ := by decide

/-! ### The trace notation (R75, R76) -/

/-- Each of the three checks of a line refuses a line that fails that check. -/
theorem test_wf_refuses_empty_line : (TraceStep.ops []).wf = false := by decide
theorem test_wf_refuses_unit_twice : (TraceStep.ops [.init .sm, .proc .sm 0xC0]).wf = false := by decide
theorem test_wf_refuses_two_bytes : (TraceStep.ops [.proc .sm 0xC0, .proc .sw 0x80]).wf = false := by decide

/-- R75's examples: canonical words, and the text of a line. -/
theorem test_trace_words :
    TraceStep.reset.word = 0x4000 ∧ (TraceStep.ops [.proc .sm 0xC0]).word = 0x01C0 ∧
    (TraceStep.ops [.init .lut, .proc .sm 0x80, .proc .sw 0x80]).word = 0x2380 ∧
    (TraceStep.ops [.init .lut, .proc .sm 0x80, .proc .sw 0x80]).text =
      "INIT.LUT, PROC.SM 0x80, PROC.SW 0x80" := by decide

/-! ### Formats -/

/-- R66: the codes, and the one code that names no position. -/
theorem test_position_codes :
    [Pos.p0, Pos.p1, Pos.p2].map posCode = [0b00, 0b01, 0b10] ∧
    ([0b00, 0b01, 0b10, 0b11] : List (BitVec 2)).map posOfCode = [some .p0, some .p1, some .p2, none] := by decide

/-- W4: at 8 bits the shift would lose the match. -/
theorem test_combined_value : combine 0xFF 0x80 = 0xFF80 ∧ swCount 0xFF 0x80 = 1 := by decide

/-- L3, L4, and the synthetic pair of 0x36D. -/
theorem test_lut_index :
    lutIndex 0xFC 0xFF = 0x0FF ∧ lutIndex 0x04 0x00 = 0x000 ∧ pairHi 0x36D = 0x03 ∧ pairLo 0x36D = 0x6D := by decide

/-- The reference function's table in section 3.4, columns c = 00, 01, 10, 11. -/
theorem test_stepcount :
    (([0x00, 0x7F, 0x80, 0xBF, 0xC0, 0xFF, 0x6D, 0xB6, 0xDB, 0x36] : List Byte).map fun b =>
      [stepCount 0b00 b, stepCount 0b01 b, stepCount 0b10 b, stepCount 0b11 b]) =
    [[0, 0, 0, 1], [0, 0, 0, 1], [0, 1, 0, 1], [0, 1, 0, 1], [1, 1, 1, 1], [0, 0, 0, 0], [2, 2, 2, 3],
     [2, 3, 2, 3], [2, 2, 2, 2], [2, 2, 2, 3]] := by decide

/-! ### The ROM (section 4) -/

/-- The printed table: one numeral a line of 32 entries, one decimal digit an entry, the first entry in the
most significant digit. -/
def romLines : List Nat :=
  [00000010000011100000001011111110, 00000010000011101111112111111110,
   00000010000011100000001011111110, 11111121111122211111112111111110,
   00000010000011100000001011111110, 00000010000011101111112111111110,
   11111121111122211111112122222221, 11111121111122211111112111111110,
   00000010000011100000001011111110, 00000010000011101111112111111110,
   00000010000011100000001011111110, 11111121111122211111112111111110,
   11111121111122211111112122222221, 11111121111122212222223222222221,
   11111121111122211111112122222221, 11111121111122211111112111111110,
   00000010000011100000001011111110, 00000010000011101111112111111110,
   00000010000011100000001011111110, 11111121111122211111112111111110] ++
  [00000010000011100000001011111110, 00000010000011101111112111111110,
   11111121111122211111112122222221, 11111121111122211111112111111110,
   11111121111122211111112122222221, 11111121111122212222223222222221,
   11111121111122211111112122222221, 22222232222233322222223222222221,
   11111121111122211111112122222221, 11111121111122212222223222222221,
   11111121111122211111112122222221, 11111121111122211111112111111110]

/-- Line `l` of the ROM as the block reads it, in the same form. -/
def romLine (l : Nat) : Nat :=
  (List.range 32).foldl (fun n k => 10 * n + (romRead State.reset.rom (BitVec.ofNat 10 (32 * l + k))).toNat) 0

/-- All 1024 entries. -/
theorem test_rom_table : (List.range 32).map romLine = romLines := by decide +kernel

/-- A write that differs from the built entry is listed, and writing the built entry back unlists it. -/
theorem test_rom_write :
    romWrite [] 0x300 5 = [(0x300, 5)] ∧ romWrite [(0x300, 5)] 0x300 1 = [] ∧
    romRead [(0x300, 5)] 0x300 = 5 := by decide

/-! ### One step of each operation -/

/-- X2, X3. -/
theorem test_reset :
    edgeShows 0x4000 (block .p2 0xFF 0xFF) = some ⟨.p0, 0x00, 0x00, ⟨0, 0, 0⟩⟩ ∧
    edgeShows 0x47C0 (block .p2 0xFF 0xFF) = some ⟨.p0, 0x00, 0x00, ⟨0, 0, 0⟩⟩ := by decide

/-- S30, S33. -/
theorem test_init_sm :
    edgeShows 0x0800 (block .p2 0x6D 0x6D) = some ⟨.p0, 0x6D, 0x6D, ⟨0, 0, 0⟩⟩ ∧
    edgeShows 0x09C0 (block .p2 0x6D 0x6D) = some ⟨.p0, 0x6D, 0x6D, ⟨0, 0, 0⟩⟩ := by decide

/-- W30, W32. -/
theorem test_init_sw :
    edgeShows 0x1000 (block .p1 0xAB 0x6D) = some ⟨.p1, 0x00, 0x6D, ⟨0, 0, 0⟩⟩ ∧
    edgeShows 0x1255 (block .p1 0xFF 0x6D) = some ⟨.p1, 0x00, 0x6D, ⟨0, 0, 0⟩⟩ := by decide

/-- L20, L22. -/
theorem test_init_lut :
    edgeShows 0x2000 (block .p1 0xAB 0x03) = some ⟨.p1, 0xAB, 0x00, ⟨0, 0, 0⟩⟩ ∧
    edgeShows 0x2400 (block .p1 0xAB 0xFF) = some ⟨.p1, 0xAB, 0x00, ⟨0, 0, 0⟩⟩ := by decide

/-- S9. -/
theorem test_proc_sm_three : edgeShows 0x016D (block .p2 0x00 0x00) = some ⟨.p1, 0x00, 0x00, ⟨3, 0, 0⟩⟩ := by decide

/-- S10, S16, S25: a carried 1 bit, a match on the first bit, a run of ones. -/
theorem test_proc_sm_more :
    edgeShows 0x01B6 (block .p1 0x00 0x00) = some ⟨.p0, 0x00, 0x00, ⟨3, 0, 0⟩⟩ ∧
    edgeShows 0x017F (block .p2 0x00 0x00) = some ⟨.p2, 0x00, 0x00, ⟨1, 0, 0⟩⟩ ∧
    edgeShows 0x010E (block .p0 0x00 0x00) = some ⟨.p0, 0x00, 0x00, ⟨1, 0, 0⟩⟩ := by decide

/-- W12. -/
theorem test_proc_sw_three : edgeShows 0x02B6 (block .p0 0x01 0x00) = some ⟨.p0, 0xB6, 0x00, ⟨0, 3, 0⟩⟩ := by decide

/-- W9, W10, W19. -/
theorem test_proc_sw_more :
    edgeShows 0x0200 (block .p0 0x03 0x00) = some ⟨.p0, 0x00, 0x00, ⟨0, 1, 0⟩⟩ ∧
    edgeShows 0x0200 (block .p0 0xFC 0x00) = some ⟨.p0, 0x00, 0x00, ⟨0, 0, 0⟩⟩ ∧
    edgeShows 0x02CD (block .p0 0xAB 0x00) = some ⟨.p0, 0xCD, 0x00, ⟨0, 2, 0⟩⟩ := by decide

/-- L5. -/
theorem test_proc_lut_three : edgeShows 0x0436 (block .p0 0x00 0x03) = some ⟨.p0, 0x00, 0x36, ⟨0, 0, 3⟩⟩ := by decide

/-- L4, L11, L12. -/
theorem test_proc_lut_more :
    edgeShows 0x0400 (block .p0 0x00 0x04) = some ⟨.p0, 0x00, 0x00, ⟨0, 0, 0⟩⟩ ∧
    edgeShows 0x04B6 (block .p0 0x00 0x02) = some ⟨.p0, 0x00, 0xB6, ⟨0, 0, 2⟩⟩ ∧
    edgeShows 0x04BF (block .p0 0x00 0x01) = some ⟨.p0, 0x00, 0xBF, ⟨0, 0, 1⟩⟩ := by decide

/-- S36, with `PROC.SW` and `PROC.LUT` of 0x00 beside it (W9, L1). -/
theorem test_hold_sm : edgeShows 0x0600 (block .p2 0x03 0x00) = some ⟨.p2, 0x00, 0x00, ⟨0, 1, 0⟩⟩ := by decide

/-- W34, with `PROC.SM` and `PROC.LUT` of 0xFF beside it (S3, L2). -/
theorem test_hold_sw : edgeShows 0x05FF (block .p0 0x03 0xFF) = some ⟨.p2, 0x03, 0xFF, ⟨0, 0, 0⟩⟩ := by decide

/-- L23, with `PROC.SM` and `PROC.SW` of 0x80 beside it (S6, W6). -/
theorem test_hold_lut : edgeShows 0x0380 (block .p1 0x01 0x01) = some ⟨.p0, 0x80, 0x01, ⟨1, 1, 0⟩⟩ := by decide

/-- P3b: an initialisation beats the sample in its own unit only. -/
theorem test_priority_in_one_step :
    edgeShows 0x2700 (block .p2 0x03 0x03) = some ⟨.p0, 0x00, 0x00, ⟨1, 1, 0⟩⟩ := by decide

/-- P1, step 3: the boundary case in all three units at once. -/
theorem test_boundary_step : edgeShows 0x0780 (block .p2 0xFF 0xFF) = some ⟨.p0, 0x80, 0x80, ⟨1, 1, 1⟩⟩ := by decide

/-- P7: from power-up, `INIT.SM`, then `PROC.SM 0xC0` counts 1, and `PROC.SW 0xC0` is refused. -/
theorem test_uninitialised_unit :
    ((nextOf (exec .initSm State.powerUp)).bind fun s => (nextOf (clockEdge 0x01C0 s)).map State.outputs) =
      some ⟨1, 0, 0⟩ ∧
    refusalOf (clockEdge 0x02C0 State.powerUp.initSm) = some (.uninitialised .sw) := by decide

/-! ### Witnesses: the hypotheses of each statement hold together of something

`[0x4000, 0x07FF, 0x0000, 0x0780]` is the run of `[0xFF, 0x80]` in every unit with an idle step inside. -/

/-- The run of the boundary case with an idle step (P1, P2). -/
def ws0 : List CommandWord := [0x4000, 0x07FF, 0x0000, 0x0780]

/-- The same samples, each unit stepped alone and in another order (P4). -/
def ws1 : List CommandWord := [0x4000, 0x01FF, 0x02FF, 0x04FF, 0x0480, 0x0280, 0x0180]

theorem ws0_runOf (u : UnitId) : IsRunOf u [0xFF, 0x80] ws0 := by
  cases u <;> exact isRunOf_cons (by decide +kernel)

theorem ws1_runOf (u : UnitId) : IsRunOf u [0xFF, 0x80] ws1 := by
  cases u <;> exact isRunOf_cons (by decide +kernel)

theorem ws0_runs : ∃ r, runWords ws0 State.reset = some r := run_of_isSome (by decide +kernel)
theorem ws1_runs : ∃ r, runWords ws1 (block .p1 0xAB 0xCD) = some r := run_of_isSome (by decide +kernel)

/-- The ROM of `State.reset` is a built one. -/
theorem rom_nil_built : RomBuilt State.reset.rom := ⟨rfl, by decide +kernel⟩

theorem test_witness_ResetEffect :
    (0x4000 : CommandWord).getLsbD 14 = true ∧ (block .p2 0xFF 0xFF).smPos = .p2 ∧
    (block .p2 0xFF 0xFF).swPrev = 0xFF ∧ (block .p2 0xFF 0xFF).lutPrev = 0xFF ∧
    0x47C0 ∈ ([0x4000, 0x47C0] : List CommandWord) := by decide

theorem test_witness_InitSmEffect :
    ((0x09C0 : CommandWord).getLsbD 14 = false ∧ (0x09C0 : CommandWord).getLsbD 11 = true) ∧
    (∃ t, clockEdge 0x09C0 (block .p2 0 0) = .next t) ∧ (0x7FFF : CommandWord).getLsbD 14 = true ∧
    (∃ t, clockEdge 0x7FFF (block .p2 0 0) = .next t) ∧ (block .p2 0 0).smPos = .p2 :=
  ⟨by decide, next_of_isSome (by decide +kernel), by decide, next_of_isSome (by decide +kernel), by decide⟩

theorem test_witness_InitSwEffect :
    ((0x1255 : CommandWord).getLsbD 14 = false ∧ (0x1255 : CommandWord).getLsbD 12 = true) ∧
    (∃ t, clockEdge 0x1255 (block .p0 0xAB 0) = .next t) ∧ (0x7FFF : CommandWord).getLsbD 14 = true ∧
    (∃ t, clockEdge 0x7FFF (block .p0 0xAB 0) = .next t) ∧ (block .p0 0xAB 0).swPrev = 0xAB :=
  ⟨by decide, next_of_isSome (by decide +kernel), by decide, next_of_isSome (by decide +kernel), by decide⟩

theorem test_witness_InitLutEffect :
    ((0x2400 : CommandWord).getLsbD 14 = false ∧ (0x2400 : CommandWord).getLsbD 13 = true) ∧
    (∃ t, clockEdge 0x2400 (block .p0 0 0x03) = .next t) ∧ (0x7FFF : CommandWord).getLsbD 14 = true ∧
    (∃ t, clockEdge 0x7FFF (block .p0 0 0x03) = .next t) ∧
    (block .p0 0 0x03).lutPrev = 0x03 ∧ RomBuilt (block .p0 0 0x03).rom ∧ (block .p0 0 0x03).lutMark = true :=
  ⟨by decide, next_of_isSome (by decide +kernel), by decide, next_of_isSome (by decide +kernel), rfl, rom_nil_built, rfl⟩

theorem test_witness_HoldSmEffect :
    ((0x06AA : CommandWord).getLsbD 14 = false ∧ (0x06AA : CommandWord).getLsbD 11 = false ∧
      (0x06AA : CommandWord).getLsbD 8 = false) ∧
    (decodeUnit .sm 0x06AA = .holdSm ∧ (runWords [0x06AA] (block .p1 0 0)).isSome = true) ∧
    ((block .p1 0 0).smPos = .p1 ∧ (block .p1 0 0).swMark = true ∧ (block .p1 0 0).lutMark = true) := by
  decide +kernel

theorem test_witness_HoldSwEffect :
    ((0x05FF : CommandWord).getLsbD 14 = false ∧ (0x05FF : CommandWord).getLsbD 12 = false ∧
      (0x05FF : CommandWord).getLsbD 9 = false) ∧
    ((block .p0 0x03 0).swPrev = 0x03 ∧ (block .p0 0x03 0).smMark = true ∧
      (block .p0 0x03 0).swMark = true) := by decide

theorem test_witness_HoldLutEffect :
    ((0x0380 : CommandWord).getLsbD 14 = false ∧ (0x0380 : CommandWord).getLsbD 13 = false ∧
      (0x0380 : CommandWord).getLsbD 10 = false) ∧
    ((block .p0 0 0x01).lutPrev = 0x01 ∧ (block .p0 0 0x01).smMark = true ∧
      (block .p0 0 0x01).swMark = true) := by decide

theorem test_witness_ProcSmEffect :
    ((block .p1 0 0).smMark = true ∧ (block .p1 0 0).smPos = .p1 ∧ (block .p0 0 0).smPos = .p0) ∧
    ((0x01C0 : CommandWord).getLsbD 14 = false ∧ (0x01C0 : CommandWord).getLsbD 11 = false ∧
      (0x01C0 : CommandWord).getLsbD 8 = true) ∧
    (∃ t, exec (.procSm 0x6D) (block .p2 0 0) = .next t) ∧ (∃ t, exec (.procSm 0x01) (block .p0 0 0) = .next t) ∧
    (0x6D : Byte).extractLsb' 0 2 = (0x01 : Byte).extractLsb' 0 2 ∧
    decodeUnit .sm 0x07C0 = .procSm 0xC0 ∧ (∃ t, clockEdge 0x07C0 (block .p0 0 0) = .next t) :=
  ⟨by decide, by decide, next_of_isSome (by decide +kernel), next_of_isSome (by decide +kernel), by decide, by decide,
    next_of_isSome (by decide +kernel)⟩

theorem test_witness_ProcSwEffect :
    ((block .p0 0xFF 0).swMark = true ∧ (block .p0 0xFF 0).swPrev = 0xFF) ∧
    ((0x0280 : CommandWord).getLsbD 14 = false ∧ (0x0280 : CommandWord).getLsbD 12 = false ∧
      (0x0280 : CommandWord).getLsbD 9 = true) ∧
    (0xFF : Byte).extractLsb' 0 2 = 0b11 ∧ (0xFE : Byte).getLsbD 0 = false ∧
    (0xFC : Byte).extractLsb' 0 2 = (0x00 : Byte).extractLsb' 0 2 := by decide

theorem test_witness_ProcLutEffect :
    ((block .p0 0 0xFF).lutMark = true ∧ RomBuilt (block .p0 0 0xFF).rom ∧ (block .p0 0 0xFF).lutPrev = 0xFF) ∧
    ((0x0480 : CommandWord).getLsbD 14 = false ∧ (0x0480 : CommandWord).getLsbD 13 = false ∧
      (0x0480 : CommandWord).getLsbD 10 = true) ∧
    (∃ t, exec (.procLut 0x36) (block .p0 0 0x03) = .next t) :=
  ⟨⟨rfl, rom_nil_built, rfl⟩, by decide, next_of_isSome (by decide +kernel)⟩

theorem test_witness_ProcUninitialisedRefused :
    State.powerUp.marked .sm = false ∧ State.powerUp.marked .sw = false ∧ State.powerUp.marked .lut = false := by
  decide

theorem test_witness_PositionAfterSample : ∃ t, exec (.procSm 0x03) (block .p0 0 0) = .next t :=
  next_of_isSome (by decide +kernel)

theorem test_witness_SmAgreesWithReference :
    (block .p2 0 0).smMark = true ∧ (block .p2 0 0).smPos = posOf 0b11 ∧ (block .p0 0 0).smPos = posOf 0b10 := by
  decide

theorem test_witness_RunOfOnesIsOneMatch : 2 ≤ 2 := by decide

theorem test_witness_SwCountCountsWindows :
    7 ≤ 7 ∧ ([0, 1, 2, 3, 4, 5, 6, 7] : List Nat).Perm [7, 6, 5, 4, 3, 2, 1, 0] := by decide

theorem test_witness_OnlyTwoBitsOfPrevMatter :
    (0xFF : Byte).extractLsb' 0 2 = (0x03 : Byte).extractLsb' 0 2 ∧ (0xFE : Byte).extractLsb' 0 2 = 0b10 ∧
    (0x04 : Byte).extractLsb' 0 2 = 0b00 := by decide

theorem test_witness_LutBuildGivesTheRom : Rom.wf [] = true ∧ Rom.wf [(0x000, 1), (0x3FF, 7)] = true := by decide

theorem test_witness_TableCorrectness :
    IsRunOf .sw [pairHi 0x36D, pairLo 0x36D] [0x1000, 0x0203, 0x026D] ∧
    ∃ r, runWords [0x1000, 0x0203, 0x026D] (block .p0 0xFF 0) = some r :=
  ⟨isRunOf_cons (by decide +kernel), run_of_isSome (by decide +kernel)⟩

theorem test_witness_RomNeverWritten :
    (∃ t, exec .initLut (block .p0 0 0x03) = .next t) ∧ ∃ r, runWords ws0 State.reset = some r :=
  ⟨next_of_isSome (by decide +kernel), ws0_runs⟩

theorem test_witness_StepCountBound :
    (occursAt [0xDB] 2 = true ∧ occursAt [0xDB] 5 = true ∧ 2 < 5) ∧ (0b11 : Context).getLsbD 0 = true := by decide

theorem test_witness_TotalBound :
    RomBuilt State.reset.rom ∧ IsRunOf .sm [0xFF, 0x80] ws0 ∧ (∃ r, runWords ws0 State.reset = some r) ∧
    2 ≤ 4 :=
  ⟨rom_nil_built, ws0_runOf _, ws0_runs, by decide⟩

theorem test_witness_PriorityWithinOneStep :
    (0x7FFF : CommandWord).getLsbD 14 = true ∧ (0x3FFF : CommandWord).getLsbD 14 = false ∧
    (0x3FFF : CommandWord).getLsbD (11 + UnitId.lut.number) = true ∧
    (∃ t, clockEdge 0x3FFF (block .p2 0xFF 0xFF) = .next t) ∧ ∃ t, clockEdge 0x7FFF (block .p2 0xFF 0xFF) = .next t :=
  ⟨by decide, by decide, by decide, next_of_isSome (by decide +kernel), next_of_isSome (by decide +kernel)⟩

theorem test_witness_DecodeIgnoresOtherUnits :
    (0x26C0 : CommandWord).getLsbD 14 = (0x00C0 : CommandWord).getLsbD 14 ∧
    (0x26C0 : CommandWord).getLsbD (11 + UnitId.sm.number) = (0x00C0 : CommandWord).getLsbD (11 + UnitId.sm.number) ∧
    (0x26C0 : CommandWord).getLsbD (8 + UnitId.sm.number) = (0x00C0 : CommandWord).getLsbD (8 + UnitId.sm.number) ∧
    (0x26C0 : CommandWord).extractLsb' 0 8 = (0x00C0 : CommandWord).extractLsb' 0 8 ∧
    (nextOf (clockEdge 0x26C0 State.reset)).isSome = true := by decide +kernel

theorem test_witness_DecodeEncodeEveryLine :
    (TraceStep.ops [.init .lut, .proc .sm 0xFF, .proc .sw 0xFF]).wf = true := by decide

theorem test_witness_CanonicalWordSelectsTheSame : decode 0x2380 = decode 0x2780 := by decide

theorem test_witness_StepRunsDecoded :
    ({ State.reset with inputs := [0x4000] } : State).inputs = [0x4000] ∧ decode 0x4000 = [.reset] ∧
    ∃ a, exec (.procSm 0xC0) State.reset = .next a :=
  ⟨rfl, by decide, next_of_isSome (by decide +kernel)⟩

theorem test_witness_StepWithNothingQueued : State.reset.inputs = [] := rfl

theorem test_witness_UnitsActIndependently :
    (∃ t, clockEdge 0x07C0 State.reset = .next t) ∧ (0x07C0 : CommandWord).getLsbD 14 = false ∧
    sampleOf .sw 0x07C0 = some 0xC0 ∧ ([.lut, .sm, .sw] : List UnitId).Perm [.sm, .sw, .lut] :=
  ⟨next_of_isSome (by decide +kernel), by decide, by decide, by decide⟩

theorem test_witness_StepAnswersExactly : clockEdge 0x02C0 State.powerUp.initSm = .refused (.uninitialised .sw) := rfl

theorem test_witness_OutputsOfAStep :
    (∃ t, clockEdge 0x09C0 State.reset = .next t) ∧ sampleOf .sm 0x09C0 = none ∧ RomBuilt State.reset.rom :=
  ⟨next_of_isSome (by decide +kernel), by decide, rom_nil_built⟩

theorem test_witness_RegisterOwnership :
    (Instr.concerns (.procSw 0x80) .sm = false ∧ ∃ t, exec (.procSw 0x80) State.reset = .next t) ∧
    Instr.concerns (.procSw 0x80) .sw = true ∧ agreeOn .sw (block .p0 0xFF 0x00) (block .p2 0xFF 0x11) ∧
    (∃ t, exec (.procSw 0x80) (block .p0 0xFF 0x00) = .next t) ∧
    ∃ t, exec (.procSw 0x80) (block .p2 0xFF 0x11) = .next t :=
  ⟨⟨by decide, next_of_isSome (by decide +kernel)⟩, by decide, ⟨rfl, rfl, rfl⟩, next_of_isSome (by decide +kernel),
    next_of_isSome (by decide +kernel)⟩

theorem test_witness_StepKeepsTheInvariant :
    let s : State := { block .p2 0xFF 0xFF with inputs := [0x0780] }
    s.Inv ∧ ∃ t, step s = .next t :=
  ⟨⟨rom_nil_built, fun u => by cases u <;> decide⟩, next_of_isSome (by decide +kernel)⟩

theorem test_witness_MarksAreNeverCleared : ∃ t, clockEdge 0x0800 State.powerUp = .next t := ⟨_, rfl⟩

theorem test_witness_RegistersAfterARun :
    (∃ r, runWords ws0 State.reset = some r) ∧ (∃ w ∈ ws0, initsUnit .sm w = true) ∧
    (∃ w ∈ ws0, initsUnit .sw w = true) ∧ ∃ w ∈ ws0, initsUnit .lut w = true :=
  ⟨ws0_runs, ⟨0x4000, List.mem_cons_self, by decide⟩, ⟨0x4000, List.mem_cons_self, by decide⟩,
    ⟨0x4000, List.mem_cons_self, by decide⟩⟩

theorem test_witness_StatesCorrespond :
    (∀ u, IsRunOf u [0xFF, 0x80] ws0) ∧ (∃ r, runWords ws0 State.reset = some r) ∧
    (∀ u, IsRunOf u [] [0x4000]) ∧ ∃ r, runWords [0x4000] State.reset = some r :=
  ⟨ws0_runOf, ws0_runs, fun u => by cases u <;> exact isRunOf_cons (by decide +kernel),
    run_of_isSome (by decide +kernel)⟩

theorem test_witness_CountsAreOccurrences :
    RomBuilt State.reset.rom ∧ IsRunOf .sm [0xFF, 0x80] ws0 ∧ ∃ r, runWords ws0 State.reset = some r :=
  ⟨rom_nil_built, ws0_runOf _, ws0_runs⟩

theorem test_witness_EveryOccurrenceCountedOnce :
    RomBuilt State.reset.rom ∧ IsRunOf .lut [0xFF, 0x80] ws0 ∧ (∃ r, runWords ws0 State.reset = some r) ∧
    occursAt [0xFF, 0x80] 9 = true :=
  ⟨rom_nil_built, ws0_runOf _, ws0_runs, by decide⟩

theorem test_witness_UnitsAgreeEveryStep :
    RomBuilt State.reset.rom ∧ RomBuilt (block .p1 0xAB 0xCD).rom ∧ IsRunOf .sm [0xFF, 0x80] ws0 ∧
    IsRunOf .lut [0xFF, 0x80] ws1 ∧ (∃ r, runWords ws0 State.reset = some r) ∧
    ∃ q, runWords ws1 (block .p1 0xAB 0xCD) = some q :=
  ⟨rom_nil_built, rom_nil_built, ws0_runOf _, ws1_runOf _, ws0_runs, ws1_runs⟩

theorem test_witness_UnitsAgreeOnTotals :
    RomBuilt State.reset.rom ∧ RomBuilt (block .p1 0xAB 0xCD).rom ∧ IsRunOf .sw [0xFF, 0x80] ws0 ∧
    IsRunOf .lut [0xFF, 0x80] ws1 ∧ (∃ r, runWords ws0 State.reset = some r) ∧
    ∃ q, runWords ws1 (block .p1 0xAB 0xCD) = some q :=
  ⟨rom_nil_built, rom_nil_built, ws0_runOf _, ws1_runOf _, ws0_runs, ws1_runs⟩

theorem test_witness_RunsAreDeterministic :
    RomBuilt State.reset.rom ∧ RomBuilt (block .p1 0xAB 0xCD).rom ∧ IsRunOf .sw [0xFF, 0x80] ws0 ∧
    IsRunOf .sw [0xFF, 0x80] ws1 ∧ (∃ r, runWords ws0 State.reset = some r) ∧
    ∃ q, runWords ws1 (block .p1 0xAB 0xCD) = some q :=
  ⟨rom_nil_built, rom_nil_built, ws0_runOf _, ws1_runOf _, ws0_runs, ws1_runs⟩

theorem test_witness_SplittingIsConsistent :
    (RomBuilt State.reset.rom ∧ IsRunOf .sm [0xFF] [0x4000, 0x07FF] ∧
      (∀ w ∈ ([0x0000, 0x0780] : List CommandWord), initsUnit .sm w = false) ∧
      samplesOf .sm [0x0000, 0x0780] = [0x80] ∧ IsRunOf .sm ([0xFF] ++ [0x80]) ws0 ∧
      (∃ r, runWords ([0x4000, 0x07FF] ++ [0x0000, 0x0780]) State.reset = some r) ∧
      ∃ q, runWords ws0 State.reset = some q) ∧
    (IsRunOf .sm [0x80] [0x4000, 0x0780] ∧ (∃ r, runWords [0x4000, 0x07FF] State.reset = some r) ∧
      ∃ r, runWords [0x4000, 0x0780] State.reset = some r) :=
  ⟨⟨rom_nil_built, isRunOf_cons (by decide +kernel), no_init (by decide +kernel), by decide +kernel, ws0_runOf _,
    run_of_isSome (by decide +kernel), ws0_runs⟩,
    isRunOf_cons (by decide +kernel), run_of_isSome (by decide +kernel), run_of_isSome (by decide +kernel)⟩

theorem test_witness_EmptyInputCountsNothing :
    IsRunOf .lut [] [0x4000, 0x0000, 0x00FF] ∧ ∃ r, runWords [0x4000, 0x0000, 0x00FF] State.reset = some r :=
  ⟨isRunOf_cons (by decide +kernel), run_of_isSome (by decide +kernel)⟩

theorem test_witness_BoundaryCase :
    RomBuilt State.reset.rom ∧ IsRunOf .lut [0xFF, 0x80] ws0 ∧ ∃ r, runWords ws0 State.reset = some r :=
  ⟨rom_nil_built, ws0_runOf _, ws0_runs⟩

theorem test_witness_SingleSampleCases :
    RomBuilt State.reset.rom ∧ (∃ r, runWords [0x4000, 0x07C0] State.reset = some r) ∧
    IsRunOf .sw [0xC0] [0x4000, 0x07C0] ∧ (∃ r, runWords [0x4000, 0x0700] State.reset = some r) ∧
    IsRunOf .sw [0x00] [0x4000, 0x0700] :=
  ⟨rom_nil_built, run_of_isSome (by decide +kernel), isRunOf_cons (by decide +kernel),
    run_of_isSome (by decide +kernel), isRunOf_cons (by decide +kernel)⟩

theorem test_witness_InitialisationSeversContext :
    RomBuilt State.reset.rom ∧ IsRunOf .lut [0x00] [0x2000, 0x0700] ∧
    ∃ r, runWords ([0x4000, 0x0703] ++ [0x2000, 0x0700]) State.reset = some r :=
  ⟨rom_nil_built, isRunOf_cons (by decide +kernel), run_of_isSome (by decide +kernel)⟩

theorem test_witness_IdleStepsAreHarmless :
    sameRegister .sm State.reset (block .p0 0x11 0x22) ∧ State.reset.rom = (block .p0 0x11 0x22).rom ∧
    (ws0.map (decodeUnit .sm)).filter (fun i => !i.isHold) =
      (ws1.map (decodeUnit .sm)).filter (fun i => !i.isHold) ∧
    (∃ r, runWords ws0 State.reset = some r) ∧ ∃ q, runWords ws1 (block .p0 0x11 0x22) = some q :=
  ⟨rfl, rfl, by decide +kernel, ws0_runs, run_of_isSome (by decide +kernel)⟩

theorem test_witness_OtherUnitsCannotInterfere :
    agreeOn .sm (block .p1 0 0) (block .p1 0xFF 0xFF) ∧
    ([0x0100, 0x0180] : List CommandWord).map (decodeUnit .sm) = [0x0700, 0x3380].map (decodeUnit .sm) ∧
    (∃ r, runWords [0x0100, 0x0180] (block .p1 0 0) = some r) ∧
    ∃ q, runWords [0x0700, 0x3380] (block .p1 0xFF 0xFF) = some q :=
  ⟨⟨rfl, rfl, rfl⟩, by decide, run_of_isSome (by decide +kernel), run_of_isSome (by decide +kernel)⟩

theorem test_witness_HighBitsOfPrevUnobservable :
    (0xFD : Byte).extractLsb' 0 2 = (block .p0 0x01 0x02).swPrev.extractLsb' 0 2 ∧
    (0xFE : Byte).extractLsb' 0 2 = (block .p0 0x01 0x02).lutPrev.extractLsb' 0 2 := by decide

end Sys2Proof.Tests
end

section
/-! PROOFS. The step and the operations it runs (`spec/00_scope.md` R13, `30_encoding.md` R60). -/

namespace Sys2Proof.Machine

/-- One operation alone is executed as it is, its fault or refusal included. -/
@[simp] theorem runOps_singleton (i : Instr) (s : State) : runOps [i] s = exec i s := by
  simp only [runOps]
  cases exec i s <;> rfl

/-- Where the first operation answers, the rest run from its next state, whatever they then do:
unlike `runOps_cons_next`, this also covers a rest that is refused. -/
theorem runOps_cons_of_next {i : Instr} {l : List Instr} {s a : State} (h : exec i s = .next a) :
    runOps (i :: l) s = runOps l a := by
  simp only [runOps, h]

/-- A step with a word queued is the clock edge of that word, on the state without it. -/
theorem step_eq_clockEdge {s : State} {w : CommandWord} {ws : List CommandWord}
    (h : s.inputs = w :: ws) : step s = clockEdge w { s with inputs := ws } := by
  rw [step, clockStep, takeWord_of_cons h]

/-- Settles O33: the step is the clock edge of the head word, and a clock edge runs what its word
decodes to. -/
theorem stepRunsDecoded : Obligations.StepRunsDecoded := by
  refine ⟨fun s w ws h => step_eq_clockEdge h, fun s w ws i h hdecode => ?_,
    fun i l s a => runOps_cons_of_next⟩
  rw [step_eq_clockEdge h, clockEdge, hdecode, runOps_singleton]

end Sys2Proof.Machine
end

section
/-! PROOFS. What the three units count of one sample and what they are left with (`spec/30_encoding.md`
R67 to R70, `40_matcher_interface.md` R99, R100, `41_state_machine.md` R116). -/

namespace Sys2Proof.Machine

/-! ### The combined value, its windows and the LUT index -/

/-- A window is the three bits of the combined value from bit `i` up (R68). -/
theorem window_getLsbD (comb : Combined) (i : Nat) {k : Nat} (hk : k < 3) :
    (window comb i).getLsbD k = comb.getLsbD (i + k) := by
  have hmask : Config.winMask.getLsbD k = true := by interval_cases k <;> rfl
  simp [window, hk, hmask]

/-- A window matches where its bits are 1, 1, 0 in stream order (R65, R68). -/
theorem windowMatches_eq (comb : Combined) (i : Nat) :
    windowMatches comb i =
      (comb.getLsbD (i + 2) && comb.getLsbD (i + 1) && !comb.getLsbD i) := by
  have hpattern : ∀ x : Window,
      (x == Config.pattern) = (x.getLsbD 2 && x.getLsbD 1 && !x.getLsbD 0) := by decide
  rw [windowMatches, hpattern, window_getLsbD _ _ (by omega), window_getLsbD _ _ (by omega),
    window_getLsbD _ _ (by omega)]
  rfl

/-- Below bit 10 the combined value is the reference's `{c, b}` (R67, R100). -/
theorem combine_getLsbD (prev cur : Byte) {k : Nat} (hk : k < 10) :
    (combine prev cur).getLsbD k = (prev.extractLsb' 0 2 ++ cur).getLsbD k := by
  rw [BitVec.getLsbD_append]
  by_cases h : k < 8
  · simp [combine, h, show k < 16 by omega]
  · have hcur : cur.getLsbD k = false := BitVec.getLsbD_of_ge cur k (by omega)
    simp [combine, h, hcur, show k < 16 by omega, show k - 8 < 2 by omega]

/-- The LUT address is `{prev[1:0], cur}` (R70, R142). -/
theorem lutIndex_eq (prev cur : Byte) : lutIndex prev cur = prev.extractLsb' 0 2 ++ cur := by
  refine BitVec.eq_of_getLsbD_eq fun k hk => ?_
  have hmask : Config.idxMask.getLsbD k = true := by interval_cases k <;> rfl
  simp [lutIndex, hk, hmask, combine_getLsbD prev cur hk]

/-! ### The counts -/

/-- A 4-bit counter that cannot wrap counts as a natural number does (R101). -/
theorem toNat_foldl_countIf (m : Nat → Bool) (l : List Nat) (n : Count) (h : n.toNat + l.length < 16) :
    (l.foldl (fun n i => countIf n (m i)) n).toNat =
      l.foldl (fun k i => if m i then k + 1 else k) n.toNat := by
  induction l generalizing n with
  | nil => rfl
  | cons i l ih =>
    simp only [List.length_cons] at h
    have hcount : (countIf n (m i)).toNat = if m i then n.toNat + 1 else n.toNat := by
      unfold countIf
      split
      · exact BitVec.toNat_add_of_lt (show n.toNat + 1 < 16 by omega)
      · rfl
    rw [List.foldl_cons, List.foldl_cons, ih _ (by rw [hcount]; split <;> omega), hcount]

/-- `SWCOUNT` is the reference's count in the context of bits 1 and 0 of the previous sample (R125, R129). -/
theorem swCount_toNat (prev cur : Byte) :
    (swCount prev cur).toNat = stepCount (prev.extractLsb' 0 2) cur := by
  have hwindow : ∀ i ∈ Config.bitOrder, windowMatches (combine prev cur) i =
      ((prev.extractLsb' 0 2 ++ cur).getLsbD (i + 2) && (prev.extractLsb' 0 2 ++ cur).getLsbD (i + 1) &&
        !(prev.extractLsb' 0 2 ++ cur).getLsbD i) := by
    intro i hi
    have hlt : i < 8 := by revert i; decide
    rw [windowMatches_eq, combine_getLsbD _ _ (by omega), combine_getLsbD _ _ (by omega),
      combine_getLsbD _ _ (by omega)]
  rw [swCount, toNat_foldl_countIf _ _ _ (by decide), stepCount]
  exact List.foldl_ext _ _ _ fun n i hi => by rw [hwindow i hi]

/-- Of three windows in a row at most one is 1, 1, 0. -/
theorem windows_overlap (a b c d e : Bool) :
    (a && b && !c).toNat + (b && c && !d).toNat + (c && d && !e).toNat ≤ 1 := by
  revert a b c d e; decide

/-- R99: the eight windows of a sample are two groups of three and one of two, each with at most one
occurrence. -/
theorem stepCount_le (c : Context) (b : Byte) : stepCount c b ≤ Config.cntMax := by
  have hif : ∀ (x : Bool) (n : Nat), (if x then n + 1 else n) = n + x.toNat := by
    intro x n; cases x <;> rfl
  simp only [stepCount, Config.bitOrder, List.foldl_cons, List.foldl_nil, hif, Config.cntMax]
  generalize (c ++ b).getLsbD = v
  have hfirst := windows_overlap (v 9) (v 8) (v 7) (v 6) (v 5)
  have hsecond := windows_overlap (v 6) (v 5) (v 4) (v 3) (v 2)
  have hlast := windows_overlap (v 3) (v 2) (v 1) (v 0) false
  simp only [Nat.reduceAdd] at *
  omega

/-- What the LUT's build stores at an address is the reference's count (R140, R147). -/
theorem builtEntry_toNat (a : LutIndex) :
    (builtEntry a).toNat = stepCount (a.extractLsb' 8 2) (a.extractLsb' 0 8) := by
  have hhi : (pairHi a).extractLsb' 0 2 = a.extractLsb' 8 2 := by
    refine BitVec.eq_of_getLsbD_eq fun k hk => ?_
    simp [pairHi, hk]
    omega
  rw [builtEntry, swCount_toNat, hhi, pairLo]

/-- The ROM that lists nothing is the built one (R140, log 8). -/
theorem romBuilt_nil : RomBuilt [] :=
  ⟨rfl, fun a => by rw [romRead_nil, builtEntry_toNat]⟩

/-! ### The automaton -/

/-- How much of the pattern a position has seen. -/
def bitsSeen : Pos → Nat
  | .p0 => 0
  | .p1 => 1
  | .p2 => 2

/-- One bit adds at most one to three times the matches plus the bits seen towards the next. -/
theorem smAdvance_potential (acc : Pos × Count) (bit : Bool) :
    3 * (smAdvance acc bit).2.toNat + bitsSeen (smAdvance acc bit).1 ≤
      3 * acc.2.toNat + bitsSeen acc.1 + 1 := by
  obtain ⟨p, n⟩ := acc
  cases p <;> cases bit <;> simp [smAdvance, smBit, countIf, bitsSeen, BitVec.toNat_add] <;> omega

/-- The same over any number of bits. -/
theorem foldl_smAdvance_potential (bits : List Bool) (acc : Pos × Count) :
    3 * (bits.foldl smAdvance acc).2.toNat + bitsSeen (bits.foldl smAdvance acc).1 ≤
      3 * acc.2.toNat + bitsSeen acc.1 + bits.length := by
  induction bits generalizing acc with
  | nil => exact le_rfl
  | cons bit bits ih =>
    have hstep := smAdvance_potential acc bit
    have hrest := ih (smAdvance acc bit)
    simp only [List.foldl_cons, List.length_cons]
    omega

/-- The automaton counts at most `CNT_MAX` in one sample, from every position (R99). -/
theorem smScan_count_le (p : Pos) (din : Byte) : (smScan p din).2.toNat ≤ Config.cntMax := by
  have hpotential := foldl_smAdvance_potential (sampleBits din) (p, 0)
  have hseen : bitsSeen p ≤ 2 := by cases p <;> decide
  have hlength : (sampleBits din).length = 8 := rfl
  have hzero : (0 : Count).toNat = 0 := rfl
  simp only [hlength, hzero] at hpotential
  unfold smScan Config.cntMax
  omega

/-- Two bits in a row fix the position, whatever came before (R116). -/
theorem smAdvance_twice_pos (acc : Pos × Count) (x y : Bool) :
    (smAdvance (smAdvance acc x) y).1 = posOf (BitVec.ofBool x ++ BitVec.ofBool y) := by
  obtain ⟨p, n⟩ := acc
  cases p <;> cases x <;> cases y <;> rfl

/-- A sample leaves the automaton at the position of its last two bits (R116). -/
theorem smScan_pos (p : Pos) (din : Byte) : (smScan p din).1 = posOf (din.extractLsb' 0 2) := by
  have hbits : din.extractLsb' 0 2 = BitVec.ofBool (din.getLsbD 1) ++ BitVec.ofBool (din.getLsbD 0) := by
    refine BitVec.eq_of_getLsbD_eq fun k hk => ?_
    rw [BitVec.getLsbD_append]
    interval_cases k <;> simp
  rw [hbits]
  exact smAdvance_twice_pos (([7, 6, 5, 4, 3, 2].map fun k => din.getLsbD k).foldl smAdvance (p, 0)) _ _

end Sys2Proof.Machine
end

section
/-! PROOFS. The operations by unit: an operation is RESET or one of three kinds, `INIT.u`, `PROC.u` and
`HOLD.u` (`spec/30_encoding.md` R77), so what holds of the three kinds for every unit holds of all ten. -/

namespace Sys2Proof.Machine

/-! ### The three kinds -/

/-- Induction over the operations by kind and unit (R77). -/
theorem Instr.byKind {P : Instr → Prop} (reset : P .reset) (init : ∀ u, P (.initOf u))
    (proc : ∀ u b, P (.procOf u b)) (hold : ∀ u, P (.holdOf u)) : ∀ i, P i
  | .reset => reset
  | .initSm => init .sm
  | .initSw => init .sw
  | .initLut => init .lut
  | .procSm b => proc .sm b
  | .procSw b => proc .sw b
  | .procLut b => proc .lut b
  | .holdSm => hold .sm
  | .holdSw => hold .sw
  | .holdLut => hold .lut

@[simp] theorem Instr.concerns_reset (v : UnitId) : Instr.reset.concerns v = true := rfl
@[simp] theorem Instr.concerns_initOf (u v : UnitId) : (Instr.initOf u).concerns v = (v == u) := by
  cases u <;> rfl
@[simp] theorem Instr.concerns_procOf (u v : UnitId) (b : Byte) :
    (Instr.procOf u b).concerns v = (v == u) := by cases u <;> rfl
@[simp] theorem Instr.concerns_holdOf (u v : UnitId) : (Instr.holdOf u).concerns v = (v == u) := by
  cases u <;> rfl

@[simp] theorem Instr.initialises_reset : Instr.reset.initialises = true := rfl
@[simp] theorem Instr.initialises_initOf (u : UnitId) : (Instr.initOf u).initialises = true := by
  cases u <;> rfl
@[simp] theorem Instr.initialises_procOf (u : UnitId) (b : Byte) :
    (Instr.procOf u b).initialises = false := by cases u <;> rfl
@[simp] theorem Instr.initialises_holdOf (u : UnitId) : (Instr.holdOf u).initialises = false := by
  cases u <;> rfl

@[simp] theorem Instr.operand?_procOf (u : UnitId) (b : Byte) : (Instr.procOf u b).operand? = some b := by
  cases u <;> rfl
@[simp] theorem Instr.operand?_holdOf (u : UnitId) : (Instr.holdOf u).operand? = none := by
  cases u <;> rfl

/-- The effect of `INIT.u` (R113, R127, R143). -/
def State.initUnit (u : UnitId) (s : State) : State :=
  match u with
  | .sm => s.initSm
  | .sw => s.initSw
  | .lut => s.initLut

/-- What unit `u` counts of the sample `b` (R112, R126, R142). -/
def State.countOf (s : State) (u : UnitId) (b : Byte) : Count :=
  match u with
  | .sm => (smScan s.smPos b).2
  | .sw => swCount s.swPrev b
  | .lut => romRead s.rom (lutIndex s.lutPrev b)

/-- The effect of `PROC.u b` on an initialised unit (R112, R126, R142). -/
def State.process (u : UnitId) (b : Byte) (s : State) : State :=
  match u with
  | .sm => (s.setCnt .sm (s.countOf .sm b)).setPos (smScan s.smPos b).1
  | .sw => (s.setCnt .sw (s.countOf .sw b)).setSwPrev b
  | .lut => (s.setCnt .lut (s.countOf .lut b)).setLutPrev b

/-- `RESET` is the three initialisations (R96). -/
theorem exec_reset_eq (s : State) :
    exec .reset s = .next (((s.initUnit .sm).initUnit .sw).initUnit .lut) := rfl

theorem exec_initOf (u : UnitId) (s : State) : exec (.initOf u) s = .next (s.initUnit u) := by
  cases u <;> rfl

theorem exec_holdOf (u : UnitId) (s : State) : exec (.holdOf u) s = .next (s.setCnt u 0) := by
  cases u <;> rfl

theorem exec_procOf (u : UnitId) (b : Byte) (s : State) :
    exec (.procOf u b) s = procUnit u (State.process u b) s := by
  cases u <;> rfl

/-- `PROC.u` answers exactly on an initialised unit (U1). -/
theorem exec_procOf_next {u : UnitId} {b : Byte} {s t : State} :
    exec (.procOf u b) s = .next t ↔ s.marked u = true ∧ t = s.process u b := by
  rw [exec_procOf, procUnit_next]

/-- What every initialisation, every sample and every hold keeps, every operation that answers keeps. -/
theorem exec_keeps {P : State → Prop} (init : ∀ u s, P s → P (s.initUnit u))
    (process : ∀ u b s, P s → P (s.process u b)) (hold : ∀ u s, P s → P (s.setCnt u 0))
    {i : Instr} {s t : State} (hs : P s) (h : exec i s = .next t) : P t := by
  induction i using Instr.byKind with
  | reset =>
    rw [exec_reset_eq] at h; cases h
    exact init .lut _ (init .sw _ (init .sm s hs))
  | init u => rw [exec_initOf] at h; cases h; exact init u s hs
  | proc u b => obtain ⟨-, rfl⟩ := exec_procOf_next.1 h; exact process u b s hs
  | hold u => rw [exec_holdOf] at h; cases h; exact hold u s hs

/-! ### The fields after each kind -/

@[simp] theorem State.initUnit_smPos (u : UnitId) (s : State) :
    (s.initUnit u).smPos = if u = .sm then .p0 else s.smPos := by cases u <;> rfl
@[simp] theorem State.initUnit_swPrev (u : UnitId) (s : State) :
    (s.initUnit u).swPrev = if u = .sw then 0x00 else s.swPrev := by cases u <;> rfl
@[simp] theorem State.initUnit_lutPrev (u : UnitId) (s : State) :
    (s.initUnit u).lutPrev = if u = .lut then 0x00 else s.lutPrev := by cases u <;> rfl
@[simp] theorem State.initUnit_rom (u : UnitId) (s : State) : (s.initUnit u).rom = s.rom := by
  cases u <;> rfl
@[simp] theorem State.initUnit_inputs (u : UnitId) (s : State) : (s.initUnit u).inputs = s.inputs := by
  cases u <;> rfl
@[simp] theorem State.initUnit_marked (u v : UnitId) (s : State) :
    (s.initUnit u).marked v = (v == u || s.marked v) := by cases u <;> simp [initUnit]
@[simp] theorem State.initUnit_cnt (u v : UnitId) (s : State) :
    (s.initUnit u).cnt v = if v = u then 0 else s.cnt v := by cases u <;> simp [initUnit]

@[simp] theorem State.process_smPos (u : UnitId) (b : Byte) (s : State) :
    (s.process u b).smPos = if u = .sm then (smScan s.smPos b).1 else s.smPos := by cases u <;> rfl
@[simp] theorem State.process_swPrev (u : UnitId) (b : Byte) (s : State) :
    (s.process u b).swPrev = if u = .sw then b else s.swPrev := by cases u <;> rfl
@[simp] theorem State.process_lutPrev (u : UnitId) (b : Byte) (s : State) :
    (s.process u b).lutPrev = if u = .lut then b else s.lutPrev := by cases u <;> rfl
@[simp] theorem State.process_rom (u : UnitId) (b : Byte) (s : State) : (s.process u b).rom = s.rom := by
  cases u <;> rfl
@[simp] theorem State.process_inputs (u : UnitId) (b : Byte) (s : State) :
    (s.process u b).inputs = s.inputs := by cases u <;> rfl
@[simp] theorem State.process_marked (u v : UnitId) (b : Byte) (s : State) :
    (s.process u b).marked v = s.marked v := by cases u <;> simp [process]
@[simp] theorem State.process_cnt (u v : UnitId) (b : Byte) (s : State) :
    (s.process u b).cnt v = if v = u then s.countOf u b else s.cnt v := by cases u <;> simp [process]

@[simp] theorem State.withInputs_marked (s : State) (ws : List CommandWord) (u : UnitId) :
    ({ s with inputs := ws } : State).marked u = s.marked u := by cases u <;> rfl
@[simp] theorem State.withInputs_cnt (s : State) (ws : List CommandWord) (u : UnitId) :
    ({ s with inputs := ws } : State).cnt u = s.cnt u := by cases u <;> rfl

/-! ### The frame: an operation of one unit leaves the others alone (R25) -/

/-- What `agreeOn` says, by unit-indexed parts. -/
theorem agreeOn_iff {u : UnitId} {s t : State} :
    agreeOn u s t ↔ sameRegister u s t ∧ s.marked u = t.marked u ∧ s.cnt u = t.cnt u ∧
      (u = .lut → s.rom = t.rom) := by
  cases u <;> simp [agreeOn, sameRegister]

theorem agreeOn_refl (u : UnitId) (s : State) : agreeOn u s s := by
  cases u <;> simp [agreeOn]

theorem agreeOn_symm {u : UnitId} {s t : State} (h : agreeOn u s t) : agreeOn u t s := by
  cases u <;> simp_all [agreeOn]

theorem agreeOn_trans {u : UnitId} {s t r : State} (hst : agreeOn u s t) (htr : agreeOn u t r) :
    agreeOn u s r := by
  cases u <;> simp_all [agreeOn]

theorem agreeOn_initUnit {u v : UnitId} (h : u ≠ v) (s : State) : agreeOn u s (s.initUnit v) :=
  agreeOn_iff.2 ⟨by cases u <;> simp [sameRegister, h.symm], by simp [h], by simp [h], by simp⟩

theorem agreeOn_process {u v : UnitId} (h : u ≠ v) (b : Byte) (s : State) :
    agreeOn u s (s.process v b) :=
  agreeOn_iff.2 ⟨by cases u <;> simp [sameRegister, h.symm], by simp, by simp [h], by simp⟩

theorem agreeOn_setCnt {u v : UnitId} (h : u ≠ v) (n : Count) (s : State) :
    agreeOn u s (s.setCnt v n) :=
  agreeOn_iff.2 ⟨by cases u <;> simp [sameRegister], by simp, by simp [h], by simp⟩

/-- An operation of other units leaves all that unit `u` owns as it was (R25). -/
theorem exec_frame {i : Instr} {u : UnitId} {s t : State} (hi : i.concerns u = false)
    (h : exec i s = .next t) : agreeOn u s t := by
  induction i using Instr.byKind with
  | reset => cases hi
  | init v => rw [exec_initOf] at h; cases h; exact agreeOn_initUnit (by simpa using hi) s
  | proc v b => obtain ⟨-, rfl⟩ := exec_procOf_next.1 h; exact agreeOn_process (by simpa using hi) b s
  | hold v => rw [exec_holdOf] at h; cases h; exact agreeOn_setCnt (by simpa using hi) 0 s

/-! ### The dependence: an operation of one unit reads only what that unit owns (R25, R104) -/

/-- What a unit counts depends only on what it owns. -/
theorem countOf_eq_of_agreeOn {u : UnitId} {s t : State} (h : agreeOn u s t) (b : Byte) :
    s.countOf u b = t.countOf u b := by
  cases u <;> simp_all [agreeOn, State.countOf]

theorem sameRegister_initUnit_both {u : UnitId} {s t : State} (h : sameRegister u s t) (v : UnitId) :
    sameRegister u (s.initUnit v) (t.initUnit v) := by
  cases u <;> simp_all [sameRegister]

theorem sameRegister_process_both {u : UnitId} {s t : State} (h : sameRegister u s t) (b : Byte) :
    sameRegister u (s.process u b) (t.process u b) := by
  cases u <;> simp_all [sameRegister]

theorem sameRegister_setCnt_both {u : UnitId} {s t : State} (h : sameRegister u s t) (v : UnitId)
    (n : Count) : sameRegister u (s.setCnt v n) (t.setCnt v n) := by
  cases u <;> simpa [sameRegister] using h

theorem agreeOn_initUnit_both {u : UnitId} {s t : State} (h : agreeOn u s t) (v : UnitId) :
    agreeOn u (s.initUnit v) (t.initUnit v) := by
  obtain ⟨hreg, hmark, hcnt, hrom⟩ := agreeOn_iff.1 h
  exact agreeOn_iff.2 ⟨sameRegister_initUnit_both hreg v, by simp [hmark], by simp [hcnt],
    by simpa using hrom⟩

theorem agreeOn_process_both {u : UnitId} {s t : State} (h : agreeOn u s t) (b : Byte) :
    agreeOn u (s.process u b) (t.process u b) := by
  obtain ⟨hreg, hmark, hcnt, hrom⟩ := agreeOn_iff.1 h
  exact agreeOn_iff.2 ⟨sameRegister_process_both hreg b, by simp [hmark],
    by simp [countOf_eq_of_agreeOn h], by simpa using hrom⟩

theorem agreeOn_setCnt_both {u : UnitId} {s t : State} (h : agreeOn u s t) (n : Count) :
    agreeOn u (s.setCnt u n) (t.setCnt u n) := by
  obtain ⟨hreg, hmark, hcnt, hrom⟩ := agreeOn_iff.1 h
  exact agreeOn_iff.2 ⟨sameRegister_setCnt_both hreg u n, by simp [hmark], by simp, by simpa using hrom⟩

/-- From states that agree on what unit `u` owns, an operation of `u` answers in both or in neither, and
leads to states that agree on it. -/
theorem exec_agreeOn {i : Instr} {u : UnitId} {s s' t : State} (hi : i.concerns u = true)
    (hs : agreeOn u s s') (h : exec i s = .next t) : ∃ t', exec i s' = .next t' ∧ agreeOn u t t' := by
  induction i using Instr.byKind with
  | reset =>
    cases h
    exact ⟨_, exec_reset_eq s',
      agreeOn_initUnit_both (agreeOn_initUnit_both (agreeOn_initUnit_both hs .sm) .sw) .lut⟩
  | init v =>
    rw [exec_initOf] at h; cases h
    exact ⟨_, exec_initOf v s', agreeOn_initUnit_both hs v⟩
  | proc v b =>
    obtain rfl : u = v := by simpa using hi
    obtain ⟨hmark, rfl⟩ := exec_procOf_next.1 h
    obtain ⟨-, hsame, -, -⟩ := agreeOn_iff.1 hs
    exact ⟨_, exec_procOf_next.2 ⟨hsame ▸ hmark, rfl⟩, agreeOn_process_both hs b⟩
  | hold v =>
    obtain rfl : u = v := by simpa using hi
    rw [exec_holdOf] at h; cases h
    exact ⟨_, exec_holdOf u s', agreeOn_setCnt_both hs 0⟩

/-- Settles O38: the frame of every operation, and what it reads. -/
theorem registerOwnership : Obligations.RegisterOwnership := by
  refine ⟨fun i u s t => exec_frame, fun i u s s' t t' hi hs h h' => ?_⟩
  obtain ⟨a, ha, hagree⟩ := exec_agreeOn hi hs h
  rw [h'] at ha
  cases ha
  exact hagree

/-- Settles O39. -/
theorem valuesAfterInitialisation : Obligations.ValuesAfterInitialisation :=
  ⟨fun s => ⟨_, exec_reset s, rfl, rfl, rfl, rfl⟩, fun s => ⟨_, exec_initSm s, rfl, rfl⟩,
    fun s => ⟨_, exec_initSw s, rfl, rfl⟩, fun s => ⟨_, exec_initLut s, rfl, rfl⟩, rfl, rfl, rfl⟩

end Sys2Proof.Machine
end

section
/-! PROOFS. One clock edge unit by unit, and runs word by word (`spec/00_scope.md` R13, `30_encoding.md`
R60, R62). -/

namespace Sys2Proof.Machine

/-! ### Lists of operations -/

/-- What every operation keeps, a list of operations keeps. -/
theorem runOps_keeps {P : State → Prop} (hexec : ∀ {i s t}, P s → exec i s = .next t → P t)
    {l : List Instr} {s t : State} (hs : P s) (h : runOps l s = .next t) : P t := by
  induction l generalizing s with
  | nil => cases h; exact hs
  | cons i l ih =>
    obtain ⟨a, ha, hrest⟩ := runOps_cons_next.1 h
    exact ih (hexec hs ha) hrest

/-- No operation takes a word from the queue or adds one (log 1). -/
theorem exec_inputs {i : Instr} {s t : State} (h : exec i s = .next t) : t.inputs = s.inputs :=
  exec_keeps (P := fun a => a.inputs = s.inputs) (by simp) (by simp) (by simp) rfl h

theorem clockEdge_inputs {w : CommandWord} {s t : State} (h : clockEdge w s = .next t) :
    t.inputs = s.inputs :=
  runOps_keeps (P := fun a => a.inputs = s.inputs) (fun hs ht => (exec_inputs ht).trans hs) rfl h

/-- A list of operations that do not concern unit `u` leaves what it owns as it was. -/
theorem runOps_frame {u : UnitId} {l : List Instr} (hl : ∀ i ∈ l, i.concerns u = false) {s t : State}
    (h : runOps l s = .next t) : agreeOn u s t := by
  induction l generalizing s with
  | nil => cases h; exact agreeOn_refl u _
  | cons i l ih =>
    obtain ⟨a, ha, hrest⟩ := runOps_cons_next.1 h
    obtain ⟨hi, hl⟩ := List.forall_mem_cons.1 hl
    exact agreeOn_trans (exec_frame hi ha) (ih hl hrest)

theorem runOps_append_next {l m : List Instr} {s t : State} :
    runOps (l ++ m) s = .next t ↔ ∃ a, runOps l s = .next a ∧ runOps m a = .next t := by
  induction l generalizing s with
  | nil => simp
  | cons i l ih => simp only [List.cons_append, runOps_cons_next, ih]; tauto

/-! ### One clock edge, seen from one unit (R62, R97) -/

/-- The operation a unit selects is one of its own. -/
theorem decodeUnit_concerns (u : UnitId) (w : CommandWord) : (decodeUnit u w).concerns u = true := by
  unfold decodeUnit
  split_ifs <;> simp

/-- Without `rst`, the operation a unit selects is of no other unit. -/
theorem decodeUnit_concerns_other {u v : UnitId} {w : CommandWord} (hrst : CommandWord.rst w = false)
    (h : u ≠ v) : (decodeUnit v w).concerns u = false := by
  unfold decodeUnit
  rw [hrst]
  split_ifs <;> simp_all

/-- The operations of a word are the one unit `u` selects, between operations of other units. -/
theorem decode_split (u : UnitId) (w : CommandWord) :
    ∃ before after, decode w = before ++ decodeUnit u w :: after ∧
      (∀ i ∈ before, i.concerns u = false) ∧ ∀ i ∈ after, i.concerns u = false := by
  cases hrst : CommandWord.rst w with
  | true => exact ⟨[], [], by simp [decode, decodeUnit, hrst], by simp, by simp⟩
  | false =>
    have hother : ∀ {v}, u ≠ v → (decodeUnit v w).concerns u = false := decodeUnit_concerns_other hrst
    have hdecode : decode w = [decodeUnit .sm w, decodeUnit .sw w, decodeUnit .lut w] := by
      simp [decode, hrst]
    cases u with
    | sm => exact ⟨[], [_, _], hdecode, by simp, by simp [hother]⟩
    | sw => exact ⟨[_], [_], hdecode, by simp [hother], by simp [hother]⟩
    | lut => exact ⟨[_, _], [], hdecode, by simp [hother], by simp⟩

/-- What a clock edge leaves of unit `u` is what the operation `u` selects alone leaves of it (R97). -/
theorem clockEdge_unit {w : CommandWord} {s t : State} (h : clockEdge w s = .next t) (u : UnitId) :
    ∃ a, exec (decodeUnit u w) s = .next a ∧ agreeOn u a t := by
  obtain ⟨before, after, hdecode, hbefore, hafter⟩ := decode_split u w
  rw [clockEdge, hdecode, runOps_append_next] at h
  obtain ⟨b, hb, h⟩ := h
  obtain ⟨c, hc, h⟩ := runOps_cons_next.1 h
  obtain ⟨a, ha, hagree⟩ :=
    exec_agreeOn (decodeUnit_concerns u w) (agreeOn_symm (runOps_frame hbefore hb)) hc
  exact ⟨a, ha, agreeOn_trans (agreeOn_symm hagree) (runOps_frame hafter h)⟩

/-- Two clock edges that select the same operation of unit `u`, in states that agree on what it owns,
lead to states that agree on it. -/
theorem clockEdge_agreeOn {u : UnitId} {w v : CommandWord} {s t a b : State}
    (hop : decodeUnit u w = decodeUnit u v) (hst : agreeOn u s t) (hs : clockEdge w s = .next a)
    (ht : clockEdge v t = .next b) : agreeOn u a b := by
  obtain ⟨a', ha', hagree⟩ := clockEdge_unit hs u
  obtain ⟨b', hb', hagree'⟩ := clockEdge_unit ht u
  obtain ⟨c, hc, hac⟩ := exec_agreeOn (decodeUnit_concerns u w) hst ha'
  rw [hop, hb'] at hc
  cases hc
  exact agreeOn_trans (agreeOn_symm hagree) (agreeOn_trans hac hagree')

/-! ### Runs, word by word -/

@[simp] theorem runWords_nil (s : State) : runWords [] s = some ⟨{ s with inputs := [] }, []⟩ := rfl

/-- A run is the clock edge of its first word and then the run of the others. -/
theorem runWords_cons {w : CommandWord} {ws : List CommandWord} {s : State} {r : Run} :
    runWords (w :: ws) s = some r ↔
      ∃ t q, clockEdge w { s with inputs := ws } = .next t ∧ runWords ws t = some q ∧
        r = ⟨q.final, t.outputs :: q.outputs⟩ := by
  have hstep : step { s with inputs := w :: ws } = clockEdge w { s with inputs := ws } :=
    step_eq_clockEdge rfl
  rw [runWords, List.length_cons, runSteps, hstep]
  cases hedge : clockEdge w { s with inputs := ws } with
  | next t =>
    have hqueue : ({ t with inputs := ws } : State) = t := by
      rw [← show t.inputs = ws from clockEdge_inputs hedge]
    simp [runWords, hqueue, eq_comm]
  | fault f => cases f
  | refused f => simp

@[simp] theorem State.outputs_of (s : State) (u : UnitId) : s.outputs.of u = s.cnt u := by
  cases u <;> rfl

theorem agreeOn_withInputs {u : UnitId} {s t : State} (h : agreeOn u s t) (ws vs : List CommandWord) :
    agreeOn u { s with inputs := ws } { t with inputs := vs } := by
  cases u <;> exact h

end Sys2Proof.Machine
end

section
/-! PROOFS. The state over steps and runs (`spec/10_state.md` R24, R25, R32 to R35,
`93_implementation_defined.md` U1, U1a). -/

namespace Sys2Proof.Machine

/-! ### The invariant -/

/-- With the ROM built, every unit counts at most `CNT_MAX` in one sample (R99). -/
theorem countOf_le {s : State} (hrom : RomBuilt s.rom) (u : UnitId) (b : Byte) :
    (s.countOf u b).toNat ≤ Config.cntMax := by
  cases u with
  | sm => exact smScan_count_le s.smPos b
  | sw =>
    rw [State.countOf, swCount_toNat]
    exact stepCount_le _ _
  | lut =>
    obtain ⟨-, hentry⟩ := hrom
    rw [State.countOf, hentry]
    exact stepCount_le _ _

/-- Driving one output to a count within the bound, the ROM untouched, keeps the invariant. -/
theorem State.Inv.drive {s t : State} (hs : s.Inv) {u : UnitId} {n : Count}
    (hn : n.toNat ≤ Config.cntMax) (hrom : t.rom = s.rom)
    (hcnt : ∀ v, t.cnt v = if v = u then n else s.cnt v) : t.Inv := by
  obtain ⟨hbuilt, hbound⟩ := hs
  refine ⟨hrom ▸ hbuilt, fun v => ?_⟩
  rw [hcnt]
  split
  · exact hn
  · exact hbound v

/-- Every operation keeps the invariant: none writes the ROM, and each drives its outputs to 0 or to a
count of one sample. -/
theorem exec_keeps_inv {i : Instr} {s t : State} (hs : s.Inv) (h : exec i s = .next t) : t.Inv := by
  refine exec_keeps (P := State.Inv) (fun u a ha => ?init) (fun u b a ha => ?process)
    (fun u a ha => ?hold) hs h
  case init =>
    exact ha.drive (n := 0) (Nat.zero_le _) (a.initUnit_rom u) fun v => a.initUnit_cnt u v
  case process =>
    exact ha.drive (countOf_le ha.1 u b) (a.process_rom u b) fun v => a.process_cnt u v b
  case hold =>
    exact ha.drive (n := 0) (Nat.zero_le _) (a.setCnt_rom u 0) fun v => a.setCnt_cnt u v 0

/-- The queue is no part of the invariant. -/
theorem State.Inv.withInputs {s : State} (h : s.Inv) (ws : List CommandWord) :
    ({ s with inputs := ws } : State).Inv := by
  obtain ⟨hrom, hcnt⟩ := h
  exact ⟨hrom, by simpa using hcnt⟩

/-- Taking the next word from the queue keeps the invariant. -/
theorem takeWord_keeps_inv {s : State} (h : s.Inv) : (takeWord s).2.Inv := by
  cases hqueue : s.inputs with
  | nil => rw [takeWord_of_nil hqueue]; exact h
  | cons w ws => rw [takeWord_of_cons hqueue]; exact h.withInputs ws

/-- Settles O41, operation by operation of the step. -/
theorem stepKeepsTheInvariant : Obligations.StepKeepsTheInvariant :=
  fun _ _ hs h => runOps_keeps exec_keeps_inv (takeWord_keeps_inv hs) h

/-- Settles O40: both states list nothing in the ROM and show 0 at every port. -/
theorem resetMeetsTheInvariant : Obligations.ResetMeetsTheInvariant :=
  ⟨⟨romBuilt_nil, fun u => by cases u <;> exact Nat.zero_le _⟩,
    ⟨romBuilt_nil, fun u => by cases u <;> exact Nat.zero_le _⟩⟩

/-! ### The marks -/

/-- An operation of unit `u` sets its mark where it initialises and keeps it otherwise (U1). -/
theorem exec_marked {i : Instr} {u : UnitId} {s t : State} (hi : i.concerns u = true)
    (h : exec i s = .next t) : t.marked u = (s.marked u || i.initialises) := by
  induction i using Instr.byKind with
  | reset =>
    rw [exec_reset_eq] at h; cases h
    simp only [State.initUnit_marked]
    cases u <;> simp
  | init v =>
    obtain rfl : u = v := by simpa using hi
    rw [exec_initOf] at h; cases h
    simp
  | proc v b =>
    obtain ⟨-, rfl⟩ := exec_procOf_next.1 h
    simp
  | hold v =>
    rw [exec_holdOf] at h; cases h
    simp

/-- Settles O42: the mark of a unit is what the operation it selects leaves. -/
theorem marksAreNeverCleared : Obligations.MarksAreNeverCleared := by
  intro w s t u h
  obtain ⟨a, ha, hagree⟩ := clockEdge_unit h u
  obtain ⟨-, hmark, -, -⟩ := agreeOn_iff.1 hagree
  rw [← hmark, exec_marked (decodeUnit_concerns u w) ha, initsUnit]

/-! ### What the registers hold after a run (R34) -/

/-- The register of unit `u` is what its samples `S` since initialisation make it (R34). -/
def registerFits (u : UnitId) (S : List Byte) (s : State) : Prop :=
  match u with
  | .sm => s.smPos = posOf (lastContext S)
  | .sw => s.swPrev = lastSample S
  | .lut => s.lutPrev = lastSample S

theorem registerFits_of_agreeOn {u : UnitId} {S : List Byte} {s t : State} (h : agreeOn u s t)
    (hs : registerFits u S s) : registerFits u S t := by
  cases u <;> simp_all [registerFits, agreeOn]

/-- An initialisation leaves the register of an empty stream (R32). -/
theorem registerFits_initUnit (u : UnitId) (s : State) : registerFits u [] (s.initUnit u) := by
  cases u <;> simp [registerFits, lastContext, lastSample, posOf]

/-- A sample leaves its own last bits, whatever the register held (R112, R126, R142). -/
theorem registerFits_process (u : UnitId) (S : List Byte) (b : Byte) (s : State) :
    registerFits u (S ++ [b]) (s.process u b) := by
  cases u <;> simp [registerFits, lastContext, lastSample, smScan_pos]

/-- The samples a unit has since its last initialisation, after one more operation of it. -/
def streamStep (S : List Byte) (i : Instr) : List Byte :=
  if i.initialises then [] else S ++ i.operand?.toList

/-- `streamAfter` takes one such step for each word. -/
theorem streamAfter_cons (u : UnitId) (S : List Byte) (w : CommandWord) (ws : List CommandWord) :
    streamAfter u S (w :: ws) = streamAfter u (streamStep S (decodeUnit u w)) ws := rfl

/-- An operation of unit `u` keeps its register what its samples make it; an initialisation makes it so. -/
theorem exec_registerFits {i : Instr} {u : UnitId} {S : List Byte} {s t : State}
    (hi : i.concerns u = true) (hs : registerFits u S s ∨ i.initialises = true)
    (h : exec i s = .next t) : registerFits u (streamStep S i) t := by
  unfold streamStep
  induction i using Instr.byKind with
  | reset =>
    cases h
    cases u <;> rfl
  | init v =>
    obtain rfl : u = v := by simpa using hi
    rw [exec_initOf] at h; cases h
    simpa using registerFits_initUnit u s
  | proc v b =>
    obtain rfl : u = v := by simpa using hi
    obtain ⟨-, rfl⟩ := exec_procOf_next.1 h
    simpa using registerFits_process u S b s
  | hold v =>
    rw [exec_holdOf] at h; cases h
    have hfits : registerFits u S s := by simpa using hs
    cases u <;> simpa [registerFits] using hfits

/-- After a run the register of a unit is what its samples make it, where it was so before the run or
the run initialises the unit. -/
theorem runWords_registerFits {u : UnitId} {ws : List CommandWord} {S : List Byte} {s : State} {r : Run}
    (hs : registerFits u S s ∨ ∃ w ∈ ws, initsUnit u w = true) (h : runWords ws s = some r) :
    registerFits u (streamAfter u S ws) r.final := by
  induction ws generalizing S s r with
  | nil =>
    cases h
    have hfits : registerFits u S s := by simpa using hs
    cases u <;> exact hfits
  | cons w ws ih =>
    obtain ⟨t, q, hedge, hrest, rfl⟩ := runWords_cons.1 h
    rw [streamAfter_cons]
    refine ih (r := q) ?_ hrest
    by_cases hlater : ∃ x ∈ ws, initsUnit u x = true
    · exact .inr hlater
    · left
      obtain ⟨a, ha, hagree⟩ := clockEdge_unit hedge u
      have hnow : registerFits u S { s with inputs := ws } ∨ (decodeUnit u w).initialises = true := by
        rcases hs with hs | ⟨x, hx, hinit⟩
        · left; cases u <;> exact hs
        · rcases List.mem_cons.1 hx with rfl | hx
          · exact .inr hinit
          · exact absurd ⟨x, hx, hinit⟩ hlater
      exact registerFits_of_agreeOn hagree (exec_registerFits (decodeUnit_concerns u w) hnow ha)

/-- Settles O44, by induction on the words of the run (`runWords_registerFits`). -/
theorem registersAfterARun : Obligations.RegistersAfterARun :=
  fun _ _ _ h => ⟨fun hinit => runWords_registerFits (u := .sm) (.inr hinit) h,
    fun hinit => runWords_registerFits (u := .sw) (.inr hinit) h,
    fun hinit => runWords_registerFits (u := .lut) (.inr hinit) h⟩

/-! ### Other units cannot interfere (R25) -/

/-- Two runs that give unit `u` the same operations, from states that agree on what it owns, show the
same outputs of `u` and end in states that agree on it. -/
theorem runWords_agreeOn {u : UnitId} {ws vs : List CommandWord} {s t : State} {r q : Run}
    (hst : agreeOn u s t) (hops : ws.map (decodeUnit u) = vs.map (decodeUnit u))
    (hr : runWords ws s = some r) (hq : runWords vs t = some q) :
    r.outputs.map (fun c => c.of u) = q.outputs.map (fun c => c.of u) ∧ agreeOn u r.final q.final := by
  induction ws generalizing vs s t r q with
  | nil =>
    obtain rfl : vs = [] := List.map_eq_nil_iff.1 hops.symm
    cases hr; cases hq
    exact ⟨rfl, agreeOn_withInputs hst [] []⟩
  | cons w ws ih =>
    cases vs with
    | nil => cases hops
    | cons v vs =>
      obtain ⟨hop, hops⟩ := List.cons_eq_cons.1 hops
      obtain ⟨a, r', hedge, hr', rfl⟩ := runWords_cons.1 hr
      obtain ⟨b, q', hedge', hq', rfl⟩ := runWords_cons.1 hq
      have hab : agreeOn u a b := clockEdge_agreeOn hop (agreeOn_withInputs hst ws vs) hedge hedge'
      obtain ⟨-, -, hcnt, -⟩ := agreeOn_iff.1 hab
      obtain ⟨houts, hfinal⟩ := ih hab hops hr' hq'
      exact ⟨by simp [hcnt, houts], hfinal⟩

/-- Settles O57, by induction on the words (`runWords_agreeOn`). -/
theorem otherUnitsCannotInterfere : Obligations.OtherUnitsCannotInterfere :=
  fun _ _ _ _ _ _ _ => runWords_agreeOn

/-! ### What no port ever shows of a state (R35, U1a) -/

/-- The part of unit `u`'s register that can reach an output: the position, or bits 1 and 0 of the last
sample (R35). -/
def sameVisible : UnitId → State → State → Prop
  | .sm, s, t => s.smPos = t.smPos
  | .sw, s, t => s.swPrev.extractLsb' 0 2 = t.swPrev.extractLsb' 0 2
  | .lut, s, t => s.lutPrev.extractLsb' 0 2 = t.lutPrev.extractLsb' 0 2

/-- Two states no port can tell apart: they agree on the ROM, the marks and the outputs, and on the
visible part of the register of every initialised unit. -/
structure ObsEq (s t : State) : Prop where
  rom : s.rom = t.rom
  marked : ∀ u, s.marked u = t.marked u
  cnt : ∀ u, s.cnt u = t.cnt u
  visible : ∀ u, s.marked u = true → sameVisible u s t

theorem sameVisible_symm {u : UnitId} {s t : State} (h : sameVisible u s t) : sameVisible u t s := by
  cases u <;> exact Eq.symm h

theorem ObsEq.symm {s t : State} (h : ObsEq s t) : ObsEq t s where
  rom := h.rom.symm
  marked u := (h.marked u).symm
  cnt u := (h.cnt u).symm
  visible u hu := sameVisible_symm (h.visible u (h.marked u ▸ hu))

theorem ObsEq.outputs {s t : State} (h : ObsEq s t) : s.outputs = t.outputs := by
  simp only [State.outputs, Counts.mk.injEq]
  exact ⟨h.cnt .sm, h.cnt .sw, h.cnt .lut⟩

theorem ObsEq.withInputs {s t : State} (h : ObsEq s t) (ws : List CommandWord) :
    ObsEq { s with inputs := ws } { t with inputs := ws } where
  rom := h.rom
  marked := by simpa using h.marked
  cnt := by simpa using h.cnt
  visible u hu := by
    have hvisible := h.visible u (by simpa using hu)
    cases u <;> exact hvisible

/-- A unit counts the same of a sample where its visible part and the ROM are the same (R35, R70). -/
theorem countOf_eq_of_sameVisible {u : UnitId} {s t : State} (h : sameVisible u s t)
    (hrom : s.rom = t.rom) (b : Byte) : s.countOf u b = t.countOf u b := by
  cases u with
  | sm => rw [State.countOf, State.countOf, show s.smPos = t.smPos from h]
  | sw =>
    refine BitVec.eq_of_toNat_eq ?_
    rw [State.countOf, State.countOf, swCount_toNat, swCount_toNat,
      show s.swPrev.extractLsb' 0 2 = t.swPrev.extractLsb' 0 2 from h]
  | lut =>
    rw [State.countOf, State.countOf, hrom, lutIndex_eq, lutIndex_eq,
      show s.lutPrev.extractLsb' 0 2 = t.lutPrev.extractLsb' 0 2 from h]

/-- After an initialisation of unit `v`, the register of `v` is visibly the same. -/
theorem sameVisible_initUnit {u v : UnitId} {s t : State} (h : u ≠ v → sameVisible u s t) :
    sameVisible u (s.initUnit v) (t.initUnit v) := by
  by_cases huv : u = v
  · subst huv; cases u <;> simp [sameVisible]
  · have hst := h huv
    cases u <;> simpa [sameVisible, Ne.symm huv] using hst

/-- The same sample leaves what was visibly the same visibly the same. -/
theorem sameVisible_process {u : UnitId} {s t : State} (h : sameVisible u s t) (v : UnitId) (b : Byte) :
    sameVisible u (s.process v b) (t.process v b) := by
  cases u <;> simp_all [sameVisible, apply_ite]

theorem ObsEq.initUnit {s t : State} (h : ObsEq s t) (v : UnitId) :
    ObsEq (s.initUnit v) (t.initUnit v) where
  rom := by simpa using h.rom
  marked u := by simp [h.marked u]
  cnt u := by simp [h.cnt u]
  visible u hu := sameVisible_initUnit fun huv => h.visible u (by simpa [huv] using hu)

theorem ObsEq.process {s t : State} (h : ObsEq s t) {v : UnitId} (hv : s.marked v = true) (b : Byte) :
    ObsEq (s.process v b) (t.process v b) where
  rom := by simpa using h.rom
  marked u := by simp [h.marked u]
  cnt u := by simp [h.cnt u, countOf_eq_of_sameVisible (h.visible v hv) h.rom b]
  visible u hu := sameVisible_process (h.visible u (by simpa using hu)) v b

theorem ObsEq.setCnt {s t : State} (h : ObsEq s t) (v : UnitId) (n : Count) :
    ObsEq (s.setCnt v n) (t.setCnt v n) where
  rom := by simpa using h.rom
  marked u := by simp [h.marked u]
  cnt u := by simp [h.cnt u]
  visible u hu := by
    have hvisible := h.visible u (by simpa using hu)
    cases u <;> simpa [sameVisible] using hvisible

/-- An operation that answers in one of two states no port can tell apart answers in the other, and
leads to two such states; the sample of an uninitialised unit is refused in both (U1). -/
theorem ObsEq.exec_next {i : Instr} {s t a : State} (h : ObsEq s t) (hs : exec i s = .next a) :
    ∃ b, exec i t = .next b ∧ ObsEq a b := by
  induction i using Instr.byKind with
  | reset =>
    cases hs
    exact ⟨_, exec_reset_eq t, ((h.initUnit .sm).initUnit .sw).initUnit .lut⟩
  | init v =>
    rw [exec_initOf] at hs; cases hs
    exact ⟨_, exec_initOf v t, h.initUnit v⟩
  | proc v b =>
    obtain ⟨hmark, rfl⟩ := exec_procOf_next.1 hs
    exact ⟨_, exec_procOf_next.2 ⟨h.marked v ▸ hmark, rfl⟩, h.process hmark b⟩
  | hold v =>
    rw [exec_holdOf] at hs; cases hs
    exact ⟨_, exec_holdOf v t, h.setCnt v 0⟩

theorem ObsEq.runOps_next {l : List Instr} {s t a : State} (h : ObsEq s t) (hs : runOps l s = .next a) :
    ∃ b, runOps l t = .next b ∧ ObsEq a b := by
  induction l generalizing s t with
  | nil => cases hs; exact ⟨t, rfl, h⟩
  | cons i l ih =>
    obtain ⟨c, hc, hrest⟩ := runOps_cons_next.1 hs
    obtain ⟨d, hd, hcd⟩ := h.exec_next hc
    obtain ⟨b, hb, hab⟩ := ih hcd hrest
    exact ⟨b, runOps_cons_next.2 ⟨d, hd, hb⟩, hab⟩

/-- A run accepted from one of two states no port can tell apart is accepted from the other, with the
same outputs in every step. -/
theorem ObsEq.runWords_some {ws : List CommandWord} {s t : State} {r : Run} (h : ObsEq s t)
    (hs : runWords ws s = some r) : ∃ q, runWords ws t = some q ∧ q.outputs = r.outputs := by
  induction ws generalizing s t r with
  | nil => cases hs; exact ⟨_, runWords_nil t, rfl⟩
  | cons w ws ih =>
    obtain ⟨a, r', hedge, hrest, rfl⟩ := runWords_cons.1 hs
    obtain ⟨b, hedge', hab⟩ := (h.withInputs ws).runOps_next hedge
    obtain ⟨q', hq', houts⟩ := ih hab hrest
    exact ⟨_, runWords_cons.2 ⟨b, q', hedge', hq', rfl⟩, by rw [hab.outputs, houts]⟩

/-- From two states no port can tell apart, every list of words is accepted in both or in neither and
shows the same outputs. -/
theorem ObsEq.map_outputs {s t : State} (h : ObsEq s t) (ws : List CommandWord) :
    (runWords ws s).map Run.outputs = (runWords ws t).map Run.outputs := by
  ext1 outs
  simp only [Option.map_eq_some_iff]
  constructor
  · rintro ⟨r, hr, rfl⟩
    exact h.runWords_some hr
  · rintro ⟨r, hr, rfl⟩
    exact h.symm.runWords_some hr

/-- Settles O58: bits 7 to 2 of the two registers are no part of what `ObsEq` compares. -/
theorem highBitsOfPrevUnobservable : Obligations.HighBitsOfPrevUnobservable := by
  intro s p q ws hp hq
  have hobs : ObsEq { s with swPrev := p, lutPrev := q } s := by
    refine ⟨rfl, fun u => ?_, fun u => ?_, fun u _ => ?_⟩
    · cases u <;> rfl
    · cases u <;> rfl
    · cases u with
      | sm => rfl
      | sw => exact hp
      | lut => exact hq
  exact hobs.map_outputs ws

/-- Settles O59: the register of a unit whose mark is not set is no part of what `ObsEq` compares. -/
theorem powerUpValuesUnobservable : Obligations.PowerUpValuesUnobservable := by
  intro s p b c ws
  have hobs : ObsEq { s with
      smPos := if s.smMark then s.smPos else p
      swPrev := if s.swMark then s.swPrev else b
      lutPrev := if s.lutMark then s.lutPrev else c } s := by
    refine ⟨rfl, fun u => ?_, fun u => ?_, fun u hu => ?_⟩
    · cases u <;> rfl
    · cases u <;> rfl
    · cases u with
      | sm => exact if_pos hu
      | sw => exact congrArg (BitVec.extractLsb' 0 2) (if_pos hu)
      | lut => exact congrArg (BitVec.extractLsb' 0 2) (if_pos hu)
  exact hobs.map_outputs ws

end Sys2Proof.Machine
end

section
/-! PROOFS. The encoder and the decoder are inverse on the operations of a step (`spec/30_encoding.md` R60
to R62, R75 to R78), and what the decoded words of R76 do. -/

namespace Sys2Proof.Machine

/-! ### The bits of a canonical word (R75, R77) -/

theorem UnitId.number_lt (u : UnitId) : u.number < 3 := by cases u <;> decide

@[simp] theorem UnitId.number_inj {u v : UnitId} : u.number = v.number ↔ u = v := by
  cases u <;> cases v <;> decide

/-- `RESET`'s word is bit 14 (R77). -/
theorem encode_reset_getLsbD (k : Nat) : (encode .reset).getLsbD k = decide (k = 14) := by
  rw [show encode .reset = BitVec.twoPow 15 14 from rfl, BitVec.getLsbD_twoPow]
  simp [eq_comm]

/-- `INIT.u`'s word is bit `11 + u` (R61, R77). -/
theorem encode_initOf_getLsbD (u : UnitId) (k : Nat) :
    (encode (.initOf u)).getLsbD k = decide (k = 11 + u.number) := by
  have hlt := UnitId.number_lt u
  rw [show encode (.initOf u) = BitVec.twoPow 15 (11 + u.number) by cases u <;> rfl,
    BitVec.getLsbD_twoPow]
  simp [eq_comm, show 11 + u.number < 15 by omega]

/-- `PROC.u b`'s word is bit `8 + u` and, below bit 8, the sample (R61, R77). -/
theorem encode_procOf_getLsbD (u : UnitId) (b : Byte) (k : Nat) :
    (encode (.procOf u b)).getLsbD k = (decide (k = 8 + u.number) || b.getLsbD k) := by
  have hlt := UnitId.number_lt u
  have hwide : (decide (k < 15) && b.getLsbD k) = b.getLsbD k := by
    by_cases hk : k < 15
    · simp [hk]
    · simp [hk, BitVec.getLsbD_of_ge b k (by omega)]
  rw [show encode (.procOf u b) = BitVec.twoPow 15 (8 + u.number) ||| b.setWidth 15 by cases u <;> rfl,
    BitVec.getLsbD_or, BitVec.getLsbD_twoPow, BitVec.getLsbD_setWidth, hwide]
  simp [eq_comm, show 8 + u.number < 15 by omega]

/-- A hold's word has no bit (R77). -/
theorem encode_holdOf_getLsbD (u : UnitId) (k : Nat) : (encode (.holdOf u)).getLsbD k = false := by
  rw [show encode (.holdOf u) = 0 by cases u <;> rfl]
  simp

/-- A bit of a joined word is a bit of one of the words joined (R60). -/
theorem encodeOps_getLsbD (l : List Instr) (k : Nat) :
    (encodeOps l).getLsbD k = true ↔ ∃ i ∈ l, (encode i).getLsbD k = true := by
  have hfold : ∀ w : CommandWord, (l.foldl (fun w i => w ||| encode i) w).getLsbD k =
      (w.getLsbD k || l.any fun i => (encode i).getLsbD k) := by
    induction l with
    | nil => simp
    | cons i l ih => simp [ih, Bool.or_assoc]
  simp [encodeOps, hfold]

/-! ### The fields of a canonical word (R60) -/

@[simp] theorem Instr.procOf_ne_initOf (u v : UnitId) (b : Byte) : Instr.procOf u b ≠ .initOf v := by
  cases u <;> cases v <;> nofun
@[simp] theorem Instr.holdOf_ne_initOf (u v : UnitId) : Instr.holdOf u ≠ .initOf v := by
  cases u <;> cases v <;> nofun
@[simp] theorem Instr.holdOf_ne_procOf (u v : UnitId) (b : Byte) : Instr.holdOf u ≠ .procOf v b := by
  cases u <;> cases v <;> nofun
@[simp] theorem Instr.initOf_ne_procOf (u v : UnitId) (b : Byte) : Instr.initOf u ≠ .procOf v b := by
  cases u <;> cases v <;> nofun
@[simp] theorem Instr.initOf_ne_reset (u : UnitId) : Instr.initOf u ≠ .reset := by cases u <;> nofun
@[simp] theorem Instr.procOf_ne_reset (u : UnitId) (b : Byte) : Instr.procOf u b ≠ .reset := by
  cases u <;> nofun
@[simp] theorem Instr.holdOf_ne_reset (u : UnitId) : Instr.holdOf u ≠ .reset := by cases u <;> nofun

@[simp] theorem Instr.initOf_inj {u v : UnitId} : Instr.initOf u = .initOf v ↔ u = v := by
  cases u <;> cases v <;> decide
@[simp] theorem Instr.procOf_inj {u v : UnitId} {b c : Byte} :
    Instr.procOf u b = .procOf v c ↔ u = v ∧ b = c := by
  cases u <;> cases v <;> simp [Instr.procOf]

@[simp] theorem Instr.operand?_initOf (u : UnitId) : (Instr.initOf u).operand? = none := by
  cases u <;> rfl

@[simp] theorem Instr.reset_ne_initOf (u : UnitId) : Instr.reset ≠ .initOf u := (initOf_ne_reset u).symm
@[simp] theorem Instr.reset_ne_procOf (u : UnitId) (b : Byte) : Instr.reset ≠ .procOf u b :=
  (procOf_ne_reset u b).symm

/-- A canonical word has `rst` exactly where it is `RESET`'s. -/
theorem rst_encode (i : Instr) : CommandWord.rst (encode i) = true ↔ i = .reset := by
  unfold CommandWord.rst
  induction i using Instr.byKind with
  | reset => simp only [encode_reset_getLsbD, decide_true]
  | init v =>
    have := UnitId.number_lt v
    simp [-BitVec.getLsbD_eq_getElem, encode_initOf_getLsbD, show 14 ≠ 11 + v.number by omega]
  | proc v b =>
    have := UnitId.number_lt v
    simp [-BitVec.getLsbD_eq_getElem, encode_procOf_getLsbD, show 14 ≠ 8 + v.number by omega]
  | hold v => simp [-BitVec.getLsbD_eq_getElem, encode_holdOf_getLsbD]

/-- A canonical word has `init[u]` exactly where it is `INIT.u`'s. -/
theorem init_encode (u : UnitId) (i : Instr) :
    CommandWord.init (encode i) u = true ↔ i = .initOf u := by
  unfold CommandWord.init
  have hu := UnitId.number_lt u
  induction i using Instr.byKind with
  | reset => simp [encode_reset_getLsbD, show 11 + u.number ≠ 14 by omega]
  | init v => simp [encode_initOf_getLsbD, eq_comm]
  | proc v b =>
    have := UnitId.number_lt v
    simp [encode_procOf_getLsbD, show 11 + u.number ≠ 8 + v.number by omega,
      BitVec.getLsbD_of_ge b (11 + u.number) (by omega)]
  | hold v => simp [encode_holdOf_getLsbD]

/-- A canonical word has `en[u]` exactly where it is a `PROC.u`'s. -/
theorem en_encode (u : UnitId) (i : Instr) :
    CommandWord.en (encode i) u = true ↔ ∃ b, i = .procOf u b := by
  unfold CommandWord.en
  have hu := UnitId.number_lt u
  induction i using Instr.byKind with
  | reset => simp [encode_reset_getLsbD, show 8 + u.number ≠ 14 by omega]
  | init v =>
    have := UnitId.number_lt v
    simp [encode_initOf_getLsbD, show 8 + u.number ≠ 11 + v.number by omega]
  | proc v b => simp [encode_procOf_getLsbD, eq_comm]
  | hold v => simp [encode_holdOf_getLsbD]

/-- Below bit 8 a canonical word holds the operand, and nothing where there is none. -/
theorem encode_getLsbD_low (i : Instr) {k : Nat} (hk : k < 8) :
    (encode i).getLsbD k = true ↔ ∃ b, i.operand? = some b ∧ b.getLsbD k = true := by
  induction i using Instr.byKind with
  | reset => simp [encode_reset_getLsbD, Instr.operand?, show k ≠ 14 by omega]
  | init v => simp [encode_initOf_getLsbD, show k ≠ 11 + v.number by omega]
  | proc v b => simp [encode_procOf_getLsbD, show k ≠ 8 + v.number by omega]
  | hold v => simp [encode_holdOf_getLsbD]

theorem rst_encodeOps (l : List Instr) : CommandWord.rst (encodeOps l) = true ↔ .reset ∈ l := by
  have hrst := rst_encode
  unfold CommandWord.rst at hrst ⊢
  simp only [encodeOps_getLsbD, hrst, exists_eq_right]

theorem init_encodeOps (u : UnitId) (l : List Instr) :
    CommandWord.init (encodeOps l) u = true ↔ .initOf u ∈ l := by
  have hinit := init_encode u
  unfold CommandWord.init at hinit ⊢
  simp only [encodeOps_getLsbD, hinit, exists_eq_right]

theorem en_encodeOps (u : UnitId) (l : List Instr) :
    CommandWord.en (encodeOps l) u = true ↔ ∃ b, .procOf u b ∈ l := by
  have hen := en_encode u
  unfold CommandWord.en at hen ⊢
  simp only [encodeOps_getLsbD, hen]
  exact ⟨fun ⟨_, hi, b, h⟩ => ⟨b, h ▸ hi⟩, fun ⟨b, h⟩ => ⟨_, h, b, rfl⟩⟩

/-- Operations that share one sample, of which at least one takes it, give their word this `din` (R75). -/
theorem din_encodeOps {l : List Instr} {b : Byte} (hsame : ∀ i ∈ l, ∀ c ∈ i.operand?, c = b)
    {i : Instr} (hi : i ∈ l) (hb : i.operand? = some b) : CommandWord.din (encodeOps l) = b := by
  refine BitVec.eq_of_getLsbD_eq fun k hk => ?_
  have hbit : (encodeOps l).getLsbD k = true ↔ b.getLsbD k = true := by
    simp only [encodeOps_getLsbD, encode_getLsbD_low _ hk]
    exact ⟨fun ⟨j, hj, c, hc, hk⟩ => hsame j hj c hc ▸ hk, fun hk => ⟨i, hi, b, hb, hk⟩⟩
  rw [CommandWord.din, BitVec.getLsbD_extractLsb', Nat.zero_add, decide_eq_true hk, Bool.true_and]
  exact Bool.eq_iff_iff.2 hbit

/-! ### The operations of one step (R62, R75) -/

/-- The operations unit `u` can select with the sample `b` in a word without `rst` (R62). -/
def Selectable (b : Byte) (u : UnitId) (i : Instr) : Prop :=
  i = .initOf u ∨ i = .procOf u b ∨ i = .holdOf u

theorem Selectable.ne_reset {b : Byte} {u : UnitId} {i : Instr} (h : Selectable b u i) : i ≠ .reset := by
  obtain rfl | rfl | rfl := h <;> simp

theorem Selectable.concerns_eq {b : Byte} {u : UnitId} {i : Instr} (h : Selectable b u i) (v : UnitId) :
    i.concerns v = (v == u) := by
  obtain rfl | rfl | rfl := h <;> simp

theorem Selectable.operand_eq {b : Byte} {u : UnitId} {i : Instr} (h : Selectable b u i) :
    ∀ c ∈ i.operand?, c = b := by
  obtain rfl | rfl | rfl := h <;> simp

/-- What the operations of one step are: `RESET` alone, or one operation of each unit, all with one
sample (R62, R75). -/
inductive StepOps : List Instr → Prop
  | reset : StepOps [.reset]
  | units (b : Byte) (f : UnitId → Instr) (h : ∀ u, Selectable b u (f u)) :
      StepOps [f .sm, f .sw, f .lut]

/-- Without `rst`, what a unit decodes is selectable with the word's own sample. -/
theorem decodeUnit_selectable {w : CommandWord} (hrst : CommandWord.rst w = false) (u : UnitId) :
    Selectable (CommandWord.din w) u (decodeUnit u w) := by
  unfold decodeUnit Selectable
  rw [if_neg (by simp [hrst])]
  split_ifs <;> simp

theorem decode_stepOps (w : CommandWord) : StepOps (decode w) := by
  unfold decode
  split_ifs with hrst
  · exact .reset
  · exact .units _ (decodeUnit · w) (decodeUnit_selectable (Bool.eq_false_iff.2 hrst))

/-- Each unit reads its own operation back from the word joined of one operation for each unit. -/
theorem decodeUnit_encodeOps {b : Byte} {f : UnitId → Instr} (hf : ∀ u, Selectable b u (f u))
    (u : UnitId) : decodeUnit u (encodeOps [f .sm, f .sw, f .lut]) = f u := by
  generalize hl : [f .sm, f .sw, f .lut] = l
  have hmem : ∀ i ∈ l, ∃ v, i = f v := by simp [← hl]
  have hself : f u ∈ l := by cases u <;> simp [← hl]
  have hown : ∀ i, i.concerns u = true → (i ∈ l ↔ f u = i) := by
    refine fun i hi => ⟨fun h => ?_, fun h => h ▸ hself⟩
    obtain ⟨v, rfl⟩ := hmem i h
    rw [(hf v).concerns_eq, beq_iff_eq] at hi
    rw [hi]
  have hrst : ¬ CommandWord.rst (encodeOps l) = true := by
    rw [rst_encodeOps, hown _ rfl]
    exact (hf u).ne_reset
  have hinit : CommandWord.init (encodeOps l) u = true ↔ f u = .initOf u := by
    rw [init_encodeOps, hown _ (by simp)]
  have hen : CommandWord.en (encodeOps l) u = true ↔ ∃ c, f u = .procOf u c := by
    rw [en_encodeOps]
    exact exists_congr fun c => hown _ (by simp)
  have hsame : ∀ i ∈ l, ∀ c ∈ i.operand?, c = b := by
    intro i hi
    obtain ⟨v, rfl⟩ := hmem i hi
    exact (hf v).operand_eq
  rw [decodeUnit, if_neg hrst]
  obtain h | h | h := hf u
  · rw [if_pos (hinit.2 h), h]
  · rw [if_neg (by simp [hinit, h]), if_pos (hen.2 ⟨b, h⟩), din_encodeOps hsame hself (by simp [h]), h]
  · rw [if_neg (by simp [hinit, h]), if_neg (by simp [hen, h]), h]

/-- The encoder and the decoder are inverse on the operations of every step. -/
theorem decode_encodeOps {l : List Instr} (hl : StepOps l) : decode (encodeOps l) = l := by
  cases hl with
  | reset => rw [decode, if_pos ((rst_encodeOps _).2 (List.mem_singleton_self _))]
  | units b f hf =>
    have hrst : ¬ CommandWord.rst (encodeOps [f .sm, f .sw, f .lut]) = true := by
      rw [rst_encodeOps]
      simp [(hf _).ne_reset.symm]
    rw [decode, if_neg hrst]
    simp only [decodeUnit_encodeOps hf]

/-! ### The lines of a trace (R75) -/

/-- The operation of a trace line's entry is selectable with every byte the entry allows. -/
theorem TraceOp.instr_selectable {o : TraceOp} {b : Byte} (hb : ∀ c ∈ o.byte?, c = b) :
    Selectable b o.target o.instr := by
  cases o with
  | init u => exact .inl rfl
  | proc u c => exact .inr (.inl (congrArg (Instr.procOf u) (hb c rfl)))

theorem TraceOp.forUnit_selectable {l : List TraceOp} {b : Byte} (hb : ∀ o ∈ l, ∀ c ∈ o.byte?, c = b)
    (u : UnitId) : Selectable b u (TraceOp.forUnit u l) := by
  induction l with
  | nil => exact .inr (.inr rfl)
  | cons o l ih =>
    obtain ⟨ho, hl⟩ := List.forall_mem_cons.1 hb
    unfold TraceOp.forUnit
    split_ifs with h
    · exact h ▸ TraceOp.instr_selectable ho
    · exact ih hl

/-- In a line that passes the check every `PROC` carries the line's byte. -/
theorem TraceOp.sameByte_iff {l : List TraceOp} :
    TraceOp.sameByte l = true ↔ ∀ o ∈ l, ∀ c ∈ o.byte?, TraceOp.lineByte? l = some c := by
  simp only [TraceOp.sameByte, List.all_eq_true]
  refine forall₂_congr fun o _ => ?_
  cases o.byte? with
  | none => simp
  | some c => simpa using eq_comm

/-- A well-formed line of a trace names the operations of one step. -/
theorem TraceStep.instrs_stepOps {t : TraceStep} (ht : t.wf = true) : StepOps t.instrs := by
  cases t with
  | reset => exact .reset
  | nop => exact .units 0x00 Instr.holdOf fun _ => .inr (.inr rfl)
  | ops l =>
    obtain ⟨-, hsame⟩ := Bool.and_eq_true_iff.1 ht
    refine .units ((TraceOp.lineByte? l).getD 0x00) (TraceOp.forUnit · l)
      (TraceOp.forUnit_selectable fun o ho c hc => ?_)
    rw [TraceOp.sameByte_iff.1 hsame o ho c hc, Option.getD_some]

/-- Settles O29. -/
theorem decodeEncodeEveryLine : Obligations.DecodeEncodeEveryLine :=
  fun _ ht => decode_encodeOps (TraceStep.instrs_stepOps ht)

/-! ### Canonical words (R75) -/

/-- Every bit of the canonical word of what a unit selects is set in the word it selects it from. -/
theorem encode_decodeUnit_subset {u : UnitId} {w : CommandWord} {k : Nat}
    (h : (encode (decodeUnit u w)).getLsbD k = true) : w.getLsbD k = true := by
  unfold decodeUnit at h
  split_ifs at h with hrst hinit hen
  · rw [encode_reset_getLsbD, decide_eq_true_eq] at h
    exact h ▸ hrst
  · rw [encode_initOf_getLsbD, decide_eq_true_eq] at h
    exact h ▸ hinit
  · rw [encode_procOf_getLsbD, Bool.or_eq_true, decide_eq_true_eq] at h
    obtain rfl | h := h
    · exact hen
    · rw [CommandWord.din, BitVec.getLsbD_extractLsb', Nat.zero_add, Bool.and_eq_true] at h
      exact h.2
  · rw [encode_holdOf_getLsbD] at h
    cases h

/-- Every operation of a word is what some unit selects. -/
theorem decode_mem {w : CommandWord} {i : Instr} (h : i ∈ decode w) : ∃ u, i = decodeUnit u w := by
  unfold decode at h
  split_ifs at h with hrst
  · exact ⟨.sm, by simpa [decodeUnit, hrst] using h⟩
  · simp only [List.mem_cons, List.not_mem_nil, or_false] at h
    obtain h | h | h := h <;> exact ⟨_, h⟩

/-- The canonical word sets no bit that its word does not (R75). -/
theorem canonical_subset (w : CommandWord) : canonical w &&& ~~~w = 0 := by
  refine BitVec.eq_of_getLsbD_eq fun k hk => ?_
  have hsub : (canonical w).getLsbD k = true → w.getLsbD k = true := by
    rw [canonical, encodeOps_getLsbD]
    rintro ⟨i, hi, hbit⟩
    obtain ⟨u, rfl⟩ := decode_mem hi
    exact encode_decodeUnit_subset hbit
  simpa [hk] using hsub

/-- Settles O30: words with the same operations have the same canonical word by its definition. -/
theorem canonicalWordSelectsTheSame : Obligations.CanonicalWordSelectsTheSame := by
  refine fun w => ⟨decode_encodeOps (decode_stepOps w), fun w' hw => ?_⟩
  have hcanonical : canonical w' = canonical w := congrArg encodeOps hw
  exact ⟨hcanonical, hcanonical ▸ canonical_subset w'⟩

/-! ### What one unit decodes (R62, R77, R78) -/

/-- The bits unit `u` decodes beside the sample: `rst`, `init[u]` and `en[u]` (R62). -/
def unitMask (u : UnitId) : CommandWord :=
  BitVec.twoPow 15 14 ||| BitVec.twoPow 15 (11 + u.number) ||| BitVec.twoPow 15 (8 + u.number)

/-- The word with the three bits of unit `u` given and every other bit 0. -/
def unitWord (u : UnitId) (rst init en : Bool) : CommandWord :=
  (if rst then BitVec.twoPow 15 14 else 0) ||| (if init then BitVec.twoPow 15 (11 + u.number) else 0) |||
    (if en then BitVec.twoPow 15 (8 + u.number) else 0)

theorem and_unitMask (u : UnitId) (w : CommandWord) :
    w &&& unitMask u = unitWord u (CommandWord.rst w) (CommandWord.init w u) (CommandWord.en w u) := by
  simp only [unitMask, unitWord, BitVec.and_or_distrib_left, BitVec.and_twoPow, CommandWord.rst,
    CommandWord.init, CommandWord.en]
  rfl

/-- Every row of a unit tests bits of that unit only (R62, R77). -/
theorem unitMask_and_rowMask (u : UnitId) :
    ∀ r ∈ opTable, (r.unit == none || r.unit == some u) = true → unitMask u &&& r.mask = r.mask := by
  cases u <;> decide

/-- Which rows of a unit a word selects depends only on the unit's three bits. -/
theorem selectedRows_and_unitMask (u : UnitId) (w : CommandWord) :
    selectedRows u (w &&& unitMask u) = selectedRows u w := by
  refine List.filter_congr fun r hr => ?_
  cases hu : r.unit == none || r.unit == some u with
  | false => rfl
  | true => rw [BitVec.and_assoc, unitMask_and_rowMask u r hr hu]

/-- The name of what the if-else chain of R62 selects from a unit's three bits. -/
def chainName (u : UnitId) (rst init en : Bool) : String :=
  if rst then Instr.reset.mnemonic
  else if init then (Instr.initOf u).mnemonic
  else if en then (Instr.procOf u 0x00).mnemonic
  else (Instr.holdOf u).mnemonic

theorem decodeUnit_mnemonic (u : UnitId) (w : CommandWord) : (decodeUnit u w).mnemonic =
    chainName u (CommandWord.rst w) (CommandWord.init w u) (CommandWord.en w u) := by
  unfold decodeUnit chainName
  split_ifs
  · rfl
  · rfl
  · cases u <;> rfl
  · rfl

/-- R78 over the eight values of a unit's three bits. -/
theorem selectedRows_unitWord (u : UnitId) (rst init en : Bool) :
    (selectedRows u (unitWord u rst init en)).map OpRow.mnemonic = [chainName u rst init en] := by
  cases u <;> revert rst init en <;> decide

/-- Settles O26. -/
theorem decodeTotalAndExclusive : Obligations.DecodeTotalAndExclusive := by
  refine fun w u => ⟨?_, ?_⟩
  · rw [← selectedRows_and_unitMask, and_unitMask, selectedRows_unitWord, decodeUnit_mnemonic]
  · unfold decodeUnit CommandWord.din
    split_ifs <;> simp

/-- A unit reads no bit of the other units (R62). -/
theorem decodeUnit_congr {u : UnitId} {w w' : CommandWord}
    (hrst : CommandWord.rst w = CommandWord.rst w') (hinit : CommandWord.init w u = CommandWord.init w' u)
    (hen : CommandWord.en w u = CommandWord.en w' u) (hdin : CommandWord.din w = CommandWord.din w') :
    decodeUnit u w = decodeUnit u w' := by
  rw [decodeUnit, decodeUnit, hrst, hinit, hen, hdin]

/-- Settles O28: the first part is the definition of the decoder, and the last is the clock edge seen from
one unit. -/
theorem decodeIgnoresOtherUnits : Obligations.DecodeIgnoresOtherUnits :=
  ⟨fun _ _ => rfl, fun _ _ _ => decodeUnit_congr, fun _ _ _ u h => clockEdge_unit h u⟩

/-! ### The words of the test vectors and of R76 -/

/-- Settles O32: words with no free bit, decoded. -/
theorem sampleWordsDecode : Obligations.SampleWordsDecode := by
  unfold Obligations.SampleWordsDecode
  decide

/-- Joining words that carry the same sample joins their other bits (R60). -/
theorem or_or_same (x y b : CommandWord) : (x ||| b) ||| (y ||| b) = (x ||| y) ||| b := by
  rw [BitVec.or_assoc, BitVec.or_comm b, BitVec.or_assoc, BitVec.or_self, ← BitVec.or_assoc]

theorem feed_word (b : Byte) : (feed b).word = 0x0700 ||| b.setWidth 15 := by
  have hjoin : (feed b).word = 0#15 ||| (0x0100 ||| b.setWidth 15) ||| (0x0200 ||| b.setWidth 15) |||
      (0x0400 ||| b.setWidth 15) := rfl
  rw [hjoin, BitVec.zero_or, or_or_same, or_or_same]
  rfl

/-- The word of one operation beside two holds is the operation's own (R75). -/
theorem processCall_word (u : UnitId) (b : Byte) : (processCall u b).word = encode (.procOf u b) := by
  cases u <;> simp [processCall, TraceStep.word, TraceStep.instrs, TraceOp.forUnit, TraceOp.target, TraceOp.instr,
    Instr.holdOf, encodeOps, encode]

/-- `INIT.ALL` is three operations and `RESET` is one, with the same effect (R76, R96). -/
theorem clockEdge_initAll (s : State) : clockEdge 0x3800 s = clockEdge 0x4000 s := by
  have hinit : decode 0x3800 = [.initSm, .initSw, .initLut] := by decide
  have hreset : decode 0x4000 = [.reset] := by decide
  rw [clockEdge, clockEdge, hinit, hreset, runOps_singleton, exec_reset,
    runOps_cons_of_next (exec_initSm s), runOps_cons_of_next (exec_initSw _), runOps_singleton, exec_initLut]

/-- Settles O31. -/
theorem pseudoOperations : Obligations.PseudoOperations := by
  refine ⟨fun b => ⟨feed_word b, rfl⟩, ⟨by decide, rfl, clockEdge_initAll⟩, ⟨by decide, rfl⟩, fun l => ?_,
    by decide, by decide, fun b => ⟨rfl, rfl, rfl⟩,
    fun b => ⟨processCall_word .sm b, processCall_word .sw b, processCall_word .lut b⟩⟩
  rw [feedSeq, List.map_map]
  exact List.map_congr_left fun b _ => feed_word b

/-! ### The step with nothing queued (log 2) -/

theorem clockEdge_nop (s : State) :
    clockEdge 0x0000 s = .next { s with cntSm := 0, cntSw := 0, cntLut := 0 } := by
  have hnop : decode 0x0000 = [.holdSm, .holdSw, .holdLut] := by decide
  rw [clockEdge, hnop, runOps_cons_of_next (exec_holdSm s), runOps_cons_of_next (exec_holdSw _),
    runOps_singleton, exec_holdLut]
  rfl

/-- Settles O34. -/
theorem stepWithNothingQueued : Obligations.StepWithNothingQueued := by
  intro s hs
  rw [step, clockStep, takeWord_of_nil hs]
  exact clockEdge_nop s

end Sys2Proof.Machine
end

section
/-! PROOFS. The reference count and the occurrences of the logical stream (`spec/20_memory.md` R44,
`40_matcher_interface.md` R91, R92, R99 to R102). -/

namespace Sys2Proof.Machine

/-! ### `STEPCOUNT` as a number of windows (R100) -/

/-- Bits `i + 2`, `i + 1`, `i` of `v` are 1, 1, 0: the pattern with its last bit at `i` (R65). -/
def patternAt (v : Nat → Bool) (i : Nat) : Bool := v (i + 2) && v (i + 1) && !v i

/-- Counting upwards from `n` adds the number of hits. -/
theorem foldl_count (m : Nat → Bool) (l : List Nat) (n : Nat) :
    l.foldl (fun k i => if m i then k + 1 else k) n = n + l.countP m := by
  induction l generalizing n with
  | nil => rfl
  | cons i l ih =>
    rw [List.foldl_cons, ih, List.countP_cons]
    split <;> omega

/-- `STEPCOUNT` is the number of the eight windows of `{c, b}` that hold the pattern (R99, R100). -/
theorem stepCount_eq_countP (c : Context) (b : Byte) :
    stepCount c b = Config.bitOrder.countP (patternAt (c ++ b).getLsbD) := by
  have hfold := foldl_count (patternAt (c ++ b).getLsbD) Config.bitOrder 0
  rwa [Nat.zero_add] at hfold

/-! ### The automaton against the reference (R116, R117) -/

/-- From the position of two bits, one more bit moves to the position of the last two and counts exactly
where the three are the pattern (R111, R116). -/
theorem smAdvance_posOf (x y z : Bool) (n : Count) :
    smAdvance (posOf (BitVec.ofBool x ++ BitVec.ofBool y), n) z =
      (posOf (BitVec.ofBool y ++ BitVec.ofBool z), countIf n (x && y && !z)) := by
  cases x <;> cases y <;> cases z <;> rfl

/-- Over the bits `k - 1` down to 0, the automaton counts the windows that hold the pattern. -/
theorem foldl_smAdvance_posOf (v : Nat → Bool) (k : Nat) (n : Count) :
    ((List.range k).reverse.map v).foldl smAdvance
        (posOf (BitVec.ofBool (v (k + 1)) ++ BitVec.ofBool (v k)), n) =
      (posOf (BitVec.ofBool (v 1) ++ BitVec.ofBool (v 0)),
        (List.range k).reverse.foldl (fun n i => countIf n (patternAt v i)) n) := by
  induction k generalizing n with
  | zero => rfl
  | succ k ih =>
    rw [List.range_succ, List.reverse_append, List.reverse_singleton, List.singleton_append,
      List.map_cons, List.foldl_cons, List.foldl_cons, smAdvance_posOf, ih]
    rfl

/-- Bits `k + 1` and `k`, as the two-bit value they are. -/
theorem extractLsb'_two {w : Nat} (v : BitVec w) (k : Nat) :
    v.extractLsb' k 2 = BitVec.ofBool (v.getLsbD (k + 1)) ++ BitVec.ofBool (v.getLsbD k) := by
  refine BitVec.eq_of_getLsbD_eq fun i hi => ?_
  rw [BitVec.getLsbD_append]
  interval_cases i <;> simp

/-- In the position of a context the automaton counts what the reference does (R117). -/
theorem smScan_posOf_count (c : Context) (b : Byte) : (smScan (posOf c) b).2.toNat = stepCount c b := by
  have hbits : sampleBits b = (List.range 8).reverse.map (c ++ b).getLsbD := by
    refine List.map_congr_left fun k hk => ?_
    have hlt : k < 8 := by revert k; decide
    rw [BitVec.getLsbD_append, if_pos hlt]
  have hctx : c = BitVec.ofBool ((c ++ b).getLsbD 9) ++ BitVec.ofBool ((c ++ b).getLsbD 8) := by
    rw [← extractLsb'_two (c ++ b) 8]
    exact (BitVec.extractLsb'_append_eq_left).symm
  have hscan := foldl_smAdvance_posOf (c ++ b).getLsbD 8 0
  rw [← hbits, ← hctx] at hscan
  rw [smScan, hscan, toNat_foldl_countIf _ _ _ (by decide), foldl_count, stepCount_eq_countP]
  exact Nat.zero_add _

/-! ### Occurrences in the logical stream, sample by sample (R44, R91, R92) -/

/-- Bit `e` of sample `j`, counted from the first in the stream (R44). -/
theorem streamBit_eq {S : List Byte} {j e : Nat} {b : Byte} (hj : S[j]? = some b) (he : e < 8) :
    streamBit S (8 * j + e) = b.getLsbD (7 - e) := by
  have hsample : (8 * j + e) / 8 = j := by omega
  have hbit : (8 * j + e) % 8 = e := by omega
  rw [streamBit, hsample, hbit, hj]

theorem streamBit_append {S : List Byte} (T : List Byte) {n : Nat} (h : n < 8 * S.length) :
    streamBit (S ++ T) n = streamBit S n := by
  rw [streamBit, streamBit, List.getElem?_append_left (by omega)]

/-- Later samples change no earlier occurrence. -/
theorem occursAt_append {S : List Byte} (T : List Byte) {n : Nat} (h : n < 8 * S.length) :
    occursAt (S ++ T) n = occursAt S n := by
  have hlonger : n < 8 * (S ++ T).length := by rw [List.length_append]; omega
  simp only [occursAt, h, hlonger, streamBit_append T h,
    streamBit_append T (show n - 1 < 8 * S.length by omega),
    streamBit_append T (show n - 2 < 8 * S.length by omega)]

theorem occurrencesEndingIn_append {S : List Byte} (T : List Byte) {j : Nat} (h : j < S.length) :
    occurrencesEndingIn (S ++ T) j = occurrencesEndingIn S j := by
  unfold occurrencesEndingIn
  congr 1
  refine List.filter_congr fun d hd => occursAt_append T ?_
  have := List.mem_range.1 hd
  omega

@[simp] theorem lastContext_nil : lastContext [] = 0b00 := rfl

@[simp] theorem lastContext_concat (S : List Byte) (b : Byte) :
    lastContext (S ++ [b]) = b.extractLsb' 0 2 := by
  simp [lastContext]

/-- The ten bits the reference looks at are the last ten of the stream, with 0 before its start (R100). -/
theorem lastContext_append_getLsbD (S : List Byte) (b : Byte) {k : Nat} (hk : k < 10) :
    (lastContext S ++ b).getLsbD k =
      (decide (k < 8 * S.length + 8) && streamBit (S ++ [b]) (8 * S.length + 7 - k)) := by
  rw [BitVec.getLsbD_append]
  by_cases hlow : k < 8
  · have hbit := streamBit_eq (S := S ++ [b]) (j := S.length) (e := 7 - k) (b := b) (by simp) (by omega)
    rw [if_pos hlow, decide_eq_true (by omega), Bool.true_and,
      show 8 * S.length + 7 - k = 8 * S.length + (7 - k) by omega, hbit,
      show 7 - (7 - k) = k by omega]
  · rw [if_neg hlow]
    rcases List.eq_nil_or_concat S with rfl | ⟨T, c, rfl⟩
    · simp [hlow]
    · have hbit := streamBit_eq (S := (T ++ [c]) ++ [b]) (j := T.length) (e := 15 - k) (b := c)
        (by simp) (by omega)
      rw [List.concat_eq_append, List.length_append, List.length_singleton, decide_eq_true (by omega),
        Bool.true_and, show 8 * (T.length + 1) + 7 - k = 8 * T.length + (15 - k) by omega, hbit,
        lastContext_concat, show 7 - (15 - k) = k - 8 by omega]
      simp [show k - 8 < 2 by omega]

/-- An occurrence in the last sample is a window of its ten bits that holds the pattern. -/
theorem occursAt_last (S : List Byte) (b : Byte) {d : Nat} (hd : d < 8) :
    occursAt (S ++ [b]) (8 * S.length + d) = patternAt (lastContext S ++ b).getLsbD (7 - d) := by
  have hlength : 8 * S.length + d < 8 * (S ++ [b]).length := by simp; omega
  rw [occursAt, patternAt, lastContext_append_getLsbD S b (by omega),
    lastContext_append_getLsbD S b (by omega), lastContext_append_getLsbD S b (by omega)]
  by_cases hstart : 2 ≤ 8 * S.length + d
  · simp only [hlength, hstart, decide_true, Bool.true_and,
      show 7 - d + 2 < 8 * S.length + 8 by omega, show 7 - d + 1 < 8 * S.length + 8 by omega,
      show 7 - d < 8 * S.length + 8 by omega,
      show 8 * S.length + 7 - (7 - d + 2) = 8 * S.length + d - 2 by omega,
      show 8 * S.length + 7 - (7 - d + 1) = 8 * S.length + d - 1 by omega,
      show 8 * S.length + 7 - (7 - d) = 8 * S.length + d by omega]
  · simp only [hstart, show ¬ 7 - d + 2 < 8 * S.length + 8 by omega, decide_false, Bool.false_and]

/-- The reference's count of a sample is the number of occurrences whose last bit it holds (R91). -/
theorem occurrencesEndingIn_last (S : List Byte) (b : Byte) :
    occurrencesEndingIn (S ++ [b]) S.length = stepCount (lastContext S) b := by
  have horder : Config.bitOrder = (List.range 8).map (7 - ·) := rfl
  rw [occurrencesEndingIn, ← List.countP_eq_length_filter, stepCount_eq_countP, horder, List.countP_map]
  exact List.countP_congr fun d hd => by rw [occursAt_last S b (List.mem_range.1 hd), Function.comp_apply]

/-- After the samples `T`, the counts the reference adds are, sample by sample, the occurrences of the
whole stream (R91, R100). -/
theorem countsFrom_lastContext (T S : List Byte) : countsFrom (lastContext T) S =
    (List.range S.length).map fun j => occurrencesEndingIn (T ++ S) (T.length + j) := by
  induction S generalizing T with
  | nil => rfl
  | cons b S ih =>
    have hhead : stepCount (lastContext T) b = occurrencesEndingIn (T ++ b :: S) T.length := by
      rw [← occurrencesEndingIn_last, List.append_cons T b S, occurrencesEndingIn_append S (by simp)]
    have htail := ih (T ++ [b])
    rw [lastContext_concat, ← List.append_cons, List.length_append, List.length_singleton] at htail
    rw [countsFrom, nextCtx, htail, hhead, List.length_cons, List.range_succ_eq_map, List.map_cons,
      List.map_map, Nat.add_zero]
    congr 1
    exact List.map_congr_left fun j _ => by rw [Function.comp_apply, Nat.succ_eq_one_add, Nat.add_assoc]

/-- The counts the reference adds from the initial context are the occurrences of the stream, sample by
sample (R91). -/
theorem countsFrom_zero (S : List Byte) :
    countsFrom 0b00 S = (List.range S.length).map (occurrencesEndingIn S) := by
  simpa using countsFrom_lastContext [] S

/-- A count over the bits of `m` samples is the sum of the counts over each (R92). -/
theorem countP_range_eight_mul (p : Nat → Bool) (m : Nat) : (List.range (8 * m)).countP p =
    ((List.range m).map fun j => (List.range 8).countP fun d => p (8 * j + d)).sum := by
  induction m with
  | zero => rfl
  | succ m ih =>
    rw [Nat.mul_succ, List.range_add, List.countP_append, ih, List.countP_map,
      List.range_succ (n := m), List.map_append, List.sum_append, List.map_singleton, List.sum_singleton]
    rfl

/-- Every occurrence ends in exactly one sample, so the samples' occurrences add up (R92). -/
theorem occurrences_eq_sum (S : List Byte) :
    occurrences S = ((List.range S.length).map (occurrencesEndingIn S)).sum := by
  rw [occurrences, ← List.countP_eq_length_filter, countP_range_eight_mul]
  simp only [List.countP_eq_length_filter]
  rfl

/-- An occurrence lies within the stream. -/
theorem occursAt_lt {S : List Byte} {n : Nat} (h : occursAt S n = true) : n < 8 * S.length := by
  simp only [occursAt, Bool.and_eq_true, decide_eq_true_eq] at h
  obtain ⟨⟨⟨⟨-, hlt⟩, -⟩, -⟩, -⟩ := h
  exact hlt

/-- The three bits of an occurrence (R44). -/
theorem occursAt_bits {S : List Byte} {n : Nat} (h : occursAt S n = true) :
    streamBit S (n - 2) = true ∧ streamBit S (n - 1) = true ∧ streamBit S n = false := by
  simp only [occursAt, Bool.and_eq_true, Bool.not_eq_true'] at h
  obtain ⟨⟨⟨-, hfirst⟩, hsecond⟩, hlast⟩ := h
  exact ⟨hfirst, hsecond, hlast⟩

/-- The last bit of an occurrence lies in exactly one sample (R92). -/
theorem occursAt_sample_unique {S : List Byte} {n : Nat} (h : occursAt S n = true) :
    ∃! j, j < S.length ∧ 8 * j ≤ n ∧ n < 8 * j + 8 := by
  have hlt := occursAt_lt h
  exact ⟨n / 8, by dsimp only; omega, fun j hj => by omega⟩

/-- Occurrences do not overlap: their last bits are at least three positions apart (R99). -/
theorem occursAt_spacing {S : List Byte} {n m : Nat} (hn : occursAt S n = true) (hm : occursAt S m = true)
    (hlt : n < m) : n + 3 ≤ m := by
  by_contra hclose
  obtain ⟨-, -, hzero⟩ := occursAt_bits hn
  obtain ⟨hfirst, hsecond, -⟩ := occursAt_bits hm
  obtain rfl | rfl : m = n + 1 ∨ m = n + 2 := by omega
  · exact absurd hsecond (by simp [hzero])
  · exact absurd hfirst (by simp [hzero])

/-! ### Bounds (R99, R102) -/

/-- One sample adds at most eight to three times the matches plus the bits seen towards the next. -/
theorem stepCount_potential (c : Context) (b : Byte) :
    3 * stepCount c b + bitsSeen (posOf (nextCtx c b)) ≤ bitsSeen (posOf c) + 8 := by
  have hpotential := foldl_smAdvance_potential (sampleBits b) (posOf c, 0)
  have hlength : (sampleBits b).length = 8 := rfl
  rw [← smScan, smScan_posOf_count, smScan_pos, hlength] at hpotential
  simpa [nextCtx] using hpotential

/-- Three times the occurrences fit into the bits of the stream and those seen before it (R102). -/
theorem sum_countsFrom_le (c : Context) (S : List Byte) :
    3 * (countsFrom c S).sum ≤ bitsSeen (posOf c) + 8 * S.length := by
  induction S generalizing c with
  | nil => simp [countsFrom]
  | cons b S ih =>
    have hhead := stepCount_potential c b
    have htail := ih (nextCtx c b)
    rw [countsFrom, List.sum_cons, List.length_cons]
    omega

theorem total_le (S : List Byte) : total S ≤ 8 * S.length / 3 := by
  have hsum := sum_countsFrom_le 0b00 S
  have hstart : bitsSeen (posOf 0b00) = 0 := rfl
  rw [total]
  omega

/-- The indexes R99 lists, whose ten bits hold the pattern three times. -/
def indexesOfThree : List LutIndex := [0x1B6, 0x336, 0x366, 0x36C, 0x36D, 0x36E, 0x376, 0x3B6]

/-- Every listed index holds the pattern three times. -/
theorem countP_of_mem_indexesOfThree :
    ∀ v ∈ indexesOfThree, Config.bitOrder.countP (patternAt v.getLsbD) = 3 := by
  rw [← List.forall_iff_forall_mem]
  decide

/-- No other index does, by going through them all. -/
theorem mem_indexesOfThree : ∀ (c : Context) (b : Byte), stepCount c b = 3 → c ++ b ∈ indexesOfThree := by
  decide +kernel

/-- Settles O24: the three units by their own bounds, the spacing by `occursAt_spacing`, the indexes by going
through them. -/
theorem stepCountBound : Obligations.StepCountBound := by
  refine ⟨smScan_count_le, fun p b => ?_, fun c => ?_, fun S n m hn hm => occursAt_spacing hn hm,
    by decide, by decide, fun c b => ⟨mem_indexesOfThree c b, fun h => ?_⟩⟩
  · rw [swCount_toNat]
    exact stepCount_le _ b
  · obtain ⟨-, hentry⟩ := romBuilt_nil
    exact (hentry c).le.trans (stepCount_le _ _)
  · rw [stepCount_eq_countP]
    exact countP_of_mem_indexesOfThree _ h

end Sys2Proof.Machine
end

section
/-! PROOFS. One step and one run as the harness sees a unit: its outputs, and its counts over a run
(`spec/30_encoding.md` R63, `40_matcher_interface.md` R91, R92, R98, R102). -/

namespace Sys2Proof.Machine

/-! ### The outputs of one step (R63, R98) -/

theorem operand?_of_initialises {i : Instr} (h : i.initialises = true) : i.operand? = none := by
  induction i using Instr.byKind with
  | reset => rfl
  | init u => simp
  | proc u b => simp at h
  | hold u => simp

/-- What unit `u` shows after an operation of its own: the count of the sample, or 0 where there is none
(R98). -/
theorem exec_cnt {i : Instr} {u : UnitId} {s t : State} (hi : i.concerns u = true)
    (h : exec i s = .next t) : t.cnt u = i.operand?.elim 0 (s.countOf u) := by
  induction i using Instr.byKind with
  | reset => cases h; cases u <;> rfl
  | init v =>
    obtain rfl : u = v := by simpa using hi
    rw [exec_initOf] at h; cases h
    simp
  | proc v b =>
    obtain rfl : u = v := by simpa using hi
    obtain ⟨-, rfl⟩ := exec_procOf_next.1 h
    simp
  | hold v =>
    obtain rfl : u = v := by simpa using hi
    rw [exec_holdOf] at h; cases h
    simp

/-- The same for a clock edge. -/
theorem clockEdge_cnt {w : CommandWord} {s t : State} (h : clockEdge w s = .next t) (u : UnitId) :
    t.cnt u = (sampleOf u w).elim 0 (s.countOf u) := by
  obtain ⟨a, ha, hagree⟩ := clockEdge_unit h u
  obtain ⟨-, -, hcnt, -⟩ := agreeOn_iff.1 hagree
  rw [← hcnt, exec_cnt (decodeUnit_concerns u w) ha, sampleOf]

/-- No clock edge writes the ROM (R49). -/
theorem clockEdge_rom {w : CommandWord} {s t : State} (h : clockEdge w s = .next t) : t.rom = s.rom :=
  runOps_keeps (P := fun a => a.rom = s.rom)
    (exec_keeps (P := fun a => a.rom = s.rom) (by simp) (by simp) (by simp)) rfl h

/-- With the ROM built no port shows more than `CNT_MAX` (R63, R99). -/
theorem clockEdge_cnt_le {w : CommandWord} {s t : State} (hrom : RomBuilt s.rom)
    (h : clockEdge w s = .next t) (u : UnitId) : (t.cnt u).toNat ≤ Config.cntMax := by
  rw [clockEdge_cnt h u]
  cases sampleOf u w with
  | none => exact Nat.zero_le _
  | some b => exact countOf_le hrom u b

/-- A count within `CNT_MAX` has bits 3 and 2 clear. -/
theorem and_highBits_eq_zero {n : Count} (h : n.toNat ≤ Config.cntMax) : n &&& 0xC#4 = 0 := by
  revert n; decide

/-- Settles O37. -/
theorem outputsOfAStep : Obligations.OutputsOfAStep := by
  refine ⟨fun w s t u h hnone => ?_, fun w s t hrom h => ⟨?_, ?_⟩⟩
  · rw [clockEdge_cnt h u, hnone, Option.elim_none]
  · have hclear := fun u => and_highBits_eq_zero (clockEdge_cnt_le hrom h u)
    calc t.resultWord &&& 0xCCC
        = (t.cnt .lut ++ t.cnt .sw ++ t.cnt .sm) &&& ((0xC#4 ++ 0xC#4 : BitVec 8) ++ 0xC#4 : ResultWord) := rfl
      _ = (t.cnt .lut &&& 0xC#4) ++ (t.cnt .sw &&& 0xC#4) ++ (t.cnt .sm &&& 0xC#4) := by
        rw [BitVec.and_append, BitVec.and_append]
      _ = 0 := by rw [hclear, hclear, hclear]; rfl
  · have hpack := BitVec.setWidth_append_append_eq_shiftLeft_setWidth_or (w''' := 12)
      (b := t.cnt .lut) (b' := t.cnt .sw) (b'' := t.cnt .sm)
    rwa [BitVec.setWidth_eq] at hpack

/-! ### The counts of a run -/

/-- A step's output and what `COUNTS_u` keeps of it: nothing where the unit processed nothing. -/
theorem procCounts_cons (u : UnitId) (w : CommandWord) (ws : List CommandWord) (c : Counts)
    (outs : List Counts) : procCounts u (w :: ws) (c :: outs) =
      ((sampleOf u w).map fun _ => (c.of u).toNat).toList ++ procCounts u ws outs := by
  rw [procCounts, List.zip_cons_cons, List.filterMap_cons]
  cases sampleOf u w <;> rfl

theorem samplesOf_cons (u : UnitId) (w : CommandWord) (ws : List CommandWord) :
    samplesOf u (w :: ws) = (sampleOf u w).toList ++ samplesOf u ws := by
  rw [samplesOf, List.filterMap_cons]
  cases sampleOf u w <;> rfl

/-- A harness that adds every output adds the counts of the samples: every other step shows 0 (R98). -/
theorem portTotal_eq_sum_procCounts {u : UnitId} {ws : List CommandWord} {s : State} {r : Run}
    (h : runWords ws s = some r) : portTotal u r = (procCounts u ws r.outputs).sum := by
  induction ws generalizing s r with
  | nil => cases h; rfl
  | cons w ws ih =>
    obtain ⟨t, q, hedge, hrest, rfl⟩ := runWords_cons.1 h
    have hport : portTotal u ⟨q.final, t.outputs :: q.outputs⟩ = (t.cnt u).toNat + portTotal u q := by
      rw [portTotal, List.map_cons, List.sum_cons, State.outputs_of, portTotal]
    rw [hport, ih hrest, procCounts_cons, List.sum_append, State.outputs_of, clockEdge_cnt hedge u]
    cases sampleOf u w <;> simp

/-- A unit whose register its stream has made counts what the reference does in the stream's context
(R100, R117, R129, R142). -/
theorem countOf_toNat {u : UnitId} {S : List Byte} {s : State} (hrom : RomBuilt s.rom)
    (hs : registerFits u S s) (b : Byte) : (s.countOf u b).toNat = stepCount (lastContext S) b := by
  have hcontext : (lastSample S).extractLsb' 0 2 = lastContext S := by
    rcases List.eq_nil_or_concat S with rfl | ⟨T, c, rfl⟩ <;> simp [lastSample, lastContext]
  cases u with
  | sm =>
    have hpos : s.smPos = posOf (lastContext S) := hs
    rw [State.countOf, hpos, smScan_posOf_count]
  | sw =>
    have hprev : s.swPrev = lastSample S := hs
    rw [State.countOf, swCount_toNat, hprev, hcontext]
  | lut =>
    have hprev : s.lutPrev = lastSample S := hs
    obtain ⟨-, hentry⟩ := hrom
    rw [State.countOf, hentry, lutIndex_eq, BitVec.extractLsb'_append_eq_left,
      BitVec.extractLsb'_append_eq_right, hprev, hcontext]

/-- A clock edge makes the register of a unit what its stream, with this step's sample, makes it. -/
theorem clockEdge_registerFits {u : UnitId} {S : List Byte} {w : CommandWord} {s t : State}
    (hs : registerFits u S s ∨ initsUnit u w = true) (h : clockEdge w s = .next t) :
    registerFits u (streamStep S (decodeUnit u w)) t := by
  obtain ⟨a, ha, hagree⟩ := clockEdge_unit h u
  exact registerFits_of_agreeOn hagree (exec_registerFits (decodeUnit_concerns u w) hs ha)

/-- The queue is no part of the register. -/
theorem registerFits_withInputs {u : UnitId} {S : List Byte} {s : State} (hs : registerFits u S s)
    (ws : List CommandWord) : registerFits u S { s with inputs := ws } := by
  cases u <;> exact hs

/-- A run without initialisations continues the stream: its counts are the reference's from the context
the stream has reached (R91, R100). -/
theorem runWords_procCounts {u : UnitId} {T : List Byte} {ws : List CommandWord} {s : State} {r : Run}
    (hrom : RomBuilt s.rom) (hs : registerFits u T s) (hinit : ∀ w ∈ ws, initsUnit u w = false)
    (h : runWords ws s = some r) :
    procCounts u ws r.outputs = countsFrom (lastContext T) (samplesOf u ws) := by
  induction ws generalizing T s r with
  | nil => cases h; rfl
  | cons w ws ih =>
    obtain ⟨t, q, hedge, hrest, rfl⟩ := runWords_cons.1 h
    obtain ⟨hw, hinit⟩ := List.forall_mem_cons.1 hinit
    have hqueue := registerFits_withInputs hs ws
    have hfits := clockEdge_registerFits (.inl hqueue) hedge
    have hcounts := ih (clockEdge_rom hedge ▸ hrom) hfits hinit hrest
    have hstream : streamStep T (decodeUnit u w) = T ++ (sampleOf u w).toList :=
      if_neg (Bool.eq_false_iff.1 hw)
    rw [procCounts_cons, samplesOf_cons, hcounts, hstream, State.outputs_of, clockEdge_cnt hedge u]
    cases sampleOf u w with
    | none => simp
    | some b => simp [countsFrom, nextCtx, countOf_toNat (s := { s with inputs := ws }) hrom hqueue]

/-- A run of `RUN_u(S)` counts what the reference counts of `S` (R91, R100). -/
theorem IsRunOf.procCounts_eq {u : UnitId} {S : List Byte} {ws : List CommandWord} {s : State} {r : Run}
    (hws : IsRunOf u S ws) (hrom : RomBuilt s.rom) (h : runWords ws s = some r) :
    procCounts u ws r.outputs = countsFrom 0b00 S := by
  obtain ⟨w, rest, rfl, hw, hrest, rfl⟩ := hws
  obtain ⟨t, q, hedge, hq, rfl⟩ := runWords_cons.1 h
  have hnone : sampleOf u w = none := operand?_of_initialises hw
  have hempty : streamStep [] (decodeUnit u w) = [] := if_pos hw
  have hfits : registerFits u [] t := hempty ▸ clockEdge_registerFits (.inr hw) hedge
  rw [procCounts_cons, hnone, runWords_procCounts (clockEdge_rom hedge ▸ hrom) hfits hrest hq]
  rfl

/-- Settles O46: the units count what the reference does, which is the occurrences of the stream. -/
theorem countsAreOccurrences : Obligations.CountsAreOccurrences :=
  fun _ S _ _ _ hrom hws h => (hws.procCounts_eq hrom h).trans (countsFrom_zero S)

/-- Settles O47: an occurrence's last bit lies in one sample, whose step counts it, and no other step
shows anything. -/
theorem everyOccurrenceCountedOnce : Obligations.EveryOccurrenceCountedOnce := by
  intro u S ws s r hrom hws h
  have hcounts := countsAreOccurrences u S ws s r hrom hws h
  have hsum : (procCounts u ws r.outputs).sum = occurrences S := by rw [hcounts, occurrences_eq_sum]
  exact ⟨fun n => occursAt_sample_unique, hcounts, hsum, (portTotal_eq_sum_procCounts h).trans hsum⟩

/-- The port's total of a run of `RUN_u(S)` is `TOTAL(S)` (R98, R100). -/
theorem IsRunOf.portTotal_eq {u : UnitId} {S : List Byte} {ws : List CommandWord} {s : State} {r : Run}
    (hws : IsRunOf u S ws) (hrom : RomBuilt s.rom) (h : runWords ws s = some r) :
    portTotal u r = total S := by
  rw [portTotal_eq_sum_procCounts h, hws.procCounts_eq hrom h, total]

/-- More steps never show less in total (R102). -/
theorem portTotal_take_mono (u : UnitId) (r : Run) {m n : Nat} (h : m ≤ n) :
    portTotal u { r with outputs := r.outputs.take m } ≤
      portTotal u { r with outputs := r.outputs.take n } :=
  ((List.take_sublist_take_left h).map _).sum_le_sum fun _ _ => Nat.zero_le _

/-- Settles O25: three occurrences take eight bits between them (`total_le`). -/
theorem totalBound : Obligations.TotalBound :=
  ⟨total_le, fun _ S _ _ _ hrom hws h => hws.portTotal_eq hrom h ▸ total_le S,
    fun u r _ _ => portTotal_take_mono u r⟩

end Sys2Proof.Machine
end

section
/-! PROOFS. `RESET`, and the independence of the three units within one step (`spec/40_matcher_interface.md`
R96, R97). -/

namespace Sys2Proof.Machine

/-! ### RESET (R96) -/

/-- A word with `rst` is `RESET` whatever its other bits are (R62, R96). -/
theorem decode_of_rst {w : CommandWord} (h : CommandWord.rst w = true) : decode w = [.reset] := if_pos h

/-- The three initialisations one after another are `RESET` (R96). -/
theorem runOps_inits (s : State) : runOps [.initSm, .initSw, .initLut] s = exec .reset s := by
  rw [runOps_cons_of_next (exec_initSm s), runOps_cons_of_next (exec_initSw _), runOps_singleton,
    exec_initLut, exec_reset]

/-- Settles O1. -/
theorem resetEffect : Obligations.ResetEffect := by
  refine ⟨fun s => rfl, fun w => decode_of_rst, runOps_inits, fun s => ?_, fun s w _ _ _ hw => ?_⟩
  · rw [runOps_cons_of_next (exec_reset s), runOps_singleton]
    rfl
  · have hrst : CommandWord.rst w = true := by
      revert w
      rw [← List.forall_iff_forall_mem]
      decide
    exact ⟨_, by rw [clockEdge, decode_of_rst hrst, runOps_singleton, exec_reset], rfl, rfl, rfl, rfl, rfl, rfl⟩

/-! ### One operation alone in its step (R75, R97) -/

/-- An operation's own units read it back from its canonical word (R75). -/
theorem decodeUnit_encode {i : Instr} {u : UnitId} (h : i.concerns u = true) :
    decodeUnit u (encode i) = i := by
  cases i with
  | reset => exact Laws.EncodingRoundTrip.reset u h
  | initSm => exact Laws.EncodingRoundTrip.initSm u h
  | initSw => exact Laws.EncodingRoundTrip.initSw u h
  | initLut => exact Laws.EncodingRoundTrip.initLut u h
  | procSm b => exact Laws.EncodingRoundTrip.procSm b u h
  | procSw b => exact Laws.EncodingRoundTrip.procSw b u h
  | procLut b => exact Laws.EncodingRoundTrip.procLut b u h
  | holdSm => exact Laws.EncodingRoundTrip.holdSm u h
  | holdSw => exact Laws.EncodingRoundTrip.holdSw u h
  | holdLut => exact Laws.EncodingRoundTrip.holdLut u h

/-- The canonical word of another unit's operation is a hold for unit `v` (R75). -/
theorem decodeUnit_encode_other {i : Instr} {v : UnitId} (h : i.concerns v = false) :
    decodeUnit v (encode i) = .holdOf v := by
  have hrst : ¬ CommandWord.rst (encode i) = true := by
    rw [rst_encode]; rintro rfl; simp at h
  have hinit : ¬ CommandWord.init (encode i) v = true := by
    rw [init_encode]; rintro rfl; simp at h
  have hen : ¬ CommandWord.en (encode i) v = true := by
    rw [en_encode]; rintro ⟨b, rfl⟩; simp at h
  rw [decodeUnit, if_neg hrst, if_neg hinit, if_neg hen]

/-! ### What an operation reads (R25, R104) -/

/-- Two states agree in all that an operation of unit `u` reads: its register, its mark and, for unit LUT,
the ROM. That is all it owns but its output (R25). -/
def readsAlike (u : UnitId) (s t : State) : Prop :=
  sameRegister u s t ∧ s.marked u = t.marked u ∧ (u = .lut → s.rom = t.rom)

theorem sameRegister_symm {u : UnitId} {s t : State} (h : sameRegister u s t) : sameRegister u t s := by
  cases u <;> exact Eq.symm h

theorem sameRegister_trans {u : UnitId} {s t r : State} (hst : sameRegister u s t)
    (htr : sameRegister u t r) : sameRegister u s r := by
  cases u <;> exact Eq.trans hst htr

theorem readsAlike_of_agreeOn {u : UnitId} {s t : State} (h : agreeOn u s t) : readsAlike u s t := by
  obtain ⟨hreg, hmark, -, hrom⟩ := agreeOn_iff.1 h
  exact ⟨hreg, hmark, hrom⟩

theorem readsAlike_trans {u : UnitId} {s t r : State} (hst : readsAlike u s t) (htr : readsAlike u t r) :
    readsAlike u s r := by
  obtain ⟨hreg, hmark, hrom⟩ := hst
  obtain ⟨hreg', hmark', hrom'⟩ := htr
  exact ⟨sameRegister_trans hreg hreg', hmark.trans hmark', fun h => (hrom h).trans (hrom' h)⟩

/-- States that differ, as far as unit `u` goes, in its output alone agree once it is driven. -/
theorem agreeOn_setCnt_of_readsAlike {u : UnitId} {s t : State} (h : readsAlike u s t) (n : Count) :
    agreeOn u (s.setCnt u n) (t.setCnt u n) := by
  obtain ⟨hreg, hmark, hrom⟩ := h
  exact agreeOn_iff.2 ⟨sameRegister_setCnt_both hreg u n, by simp [hmark], by simp, by simpa using hrom⟩

/-- Driving an output changes nothing an operation reads. -/
theorem readsAlike_setCnt (u v : UnitId) (n : Count) (s : State) : readsAlike u s (s.setCnt v n) :=
  ⟨by cases u <;> simp [sameRegister], by simp, by simp⟩

theorem readsAlike_withInputs (u : UnitId) (s : State) (ws : List CommandWord) :
    readsAlike u s { s with inputs := ws } :=
  ⟨by cases u <;> rfl, by simp, fun _ => rfl⟩

/-- What a unit counts depends on no output. -/
theorem countOf_eq_of_readsAlike {u : UnitId} {s t : State} (h : readsAlike u s t) (b : Byte) :
    s.countOf u b = t.countOf u b := by
  obtain ⟨hreg, -, hrom⟩ := h
  cases u with
  | sm => rw [State.countOf, State.countOf, show s.smPos = t.smPos from hreg]
  | sw => rw [State.countOf, State.countOf, show s.swPrev = t.swPrev from hreg]
  | lut => rw [State.countOf, State.countOf, show s.lutPrev = t.lutPrev from hreg, hrom rfl]

/-- No operation reads an output, so `exec_agreeOn` holds of states that agree but for the unit's output:
the operation drives it. -/
theorem exec_readsAlike {i : Instr} {u : UnitId} {s s' t : State} (hi : i.concerns u = true)
    (hs : readsAlike u s s') (h : exec i s = .next t) : ∃ t', exec i s' = .next t' ∧ agreeOn u t t' := by
  obtain ⟨hreg, hmark, hrom⟩ := hs
  induction i using Instr.byKind with
  | reset =>
    cases h
    exact ⟨_, exec_reset_eq s', agreeOn_iff.2
      ⟨sameRegister_initUnit_both (sameRegister_initUnit_both (sameRegister_initUnit_both hreg .sm) .sw) .lut,
        by cases u <;> rfl, by cases u <;> rfl, hrom⟩⟩
  | init v =>
    obtain rfl : u = v := by simpa using hi
    rw [exec_initOf] at h; cases h
    exact ⟨_, exec_initOf u s', agreeOn_iff.2
      ⟨sameRegister_initUnit_both hreg u, by simp, by simp, by simpa using hrom⟩⟩
  | proc v b =>
    obtain rfl : u = v := by simpa using hi
    obtain ⟨hready, rfl⟩ := exec_procOf_next.1 h
    exact ⟨_, exec_procOf_next.2 ⟨hmark ▸ hready, rfl⟩, agreeOn_iff.2
      ⟨sameRegister_process_both hreg b, by simp [hmark],
        by simp [countOf_eq_of_readsAlike ⟨hreg, hmark, hrom⟩], by simpa using hrom⟩⟩
  | hold v =>
    obtain rfl : u = v := by simpa using hi
    rw [exec_holdOf] at h; cases h
    exact ⟨_, exec_holdOf u s', agreeOn_setCnt_of_readsAlike ⟨hreg, hmark, hrom⟩ 0⟩

/-! ### When a step answers (U1) -/

/-- An operation answers where every unit it gives a sample has been initialised. -/
theorem exec_answers {i : Instr} {s : State} (h : ∀ u b, i = .procOf u b → s.marked u = true) :
    ∃ t, exec i s = .next t := by
  induction i using Instr.byKind with
  | reset => exact ⟨_, exec_reset s⟩
  | init u => exact ⟨_, exec_initOf u s⟩
  | proc u b => exact ⟨_, exec_procOf_next.2 ⟨h u b rfl, rfl⟩⟩
  | hold u => exact ⟨_, exec_holdOf u s⟩

/-- No operation clears a mark (U1). -/
theorem exec_keeps_marked {i : Instr} {u : UnitId} {s t : State} (hs : s.marked u = true)
    (h : exec i s = .next t) : t.marked u = true :=
  exec_keeps (P := fun a => a.marked u = true) (fun _ _ h => by simp [h]) (fun _ _ _ h => by simp [h])
    (fun _ _ h => by simp [h]) hs h

theorem runOps_answers {l : List Instr} {s : State}
    (h : ∀ i ∈ l, ∀ u b, i = .procOf u b → s.marked u = true) : ∃ t, runOps l s = .next t := by
  induction l generalizing s with
  | nil => exact ⟨s, rfl⟩
  | cons i l ih =>
    obtain ⟨hi, hl⟩ := List.forall_mem_cons.1 h
    obtain ⟨a, ha⟩ := exec_answers hi
    obtain ⟨t, ht⟩ := ih fun j hj u b hproc => exec_keeps_marked (hl j hj u b hproc) ha
    exact ⟨t, runOps_cons_next.2 ⟨a, ha, ht⟩⟩

/-- A clock edge answers where every unit that selects `PROC` has been initialised. -/
theorem clockEdge_answers {w : CommandWord} {s : State}
    (h : ∀ u b, decodeUnit u w = .procOf u b → s.marked u = true) : ∃ t, clockEdge w s = .next t := by
  refine runOps_answers fun i hi u b hproc => ?_
  obtain ⟨v, rfl⟩ := decode_mem hi
  have hv := decodeUnit_concerns v w
  rw [hproc] at hv
  obtain rfl : v = u := by simpa using hv
  exact h v b hproc

/-! ### The three operations of a step in three steps (R97) -/

/-- A unit's operation issued alone leaves the unit what the whole step leaves it, and the other units
lose at most what they showed. -/
theorem clockEdge_alone {u : UnitId} {w : CommandWord} {s t s' : State} (hrst : CommandWord.rst w = false)
    (h : clockEdge w s = .next t) (hs : readsAlike u s s') :
    ∃ x, clockEdge (encode (decodeUnit u w)) s' = .next x ∧ agreeOn u x t ∧
      ∀ v, u ≠ v → readsAlike v s' x := by
  have hown := decodeUnit_encode (decodeUnit_concerns u w)
  have hother : ∀ v, u ≠ v → decodeUnit v (encode (decodeUnit u w)) = .holdOf v :=
    fun v hv => decodeUnit_encode_other (decodeUnit_concerns_other hrst hv.symm)
  obtain ⟨a, ha, hat⟩ := clockEdge_unit h u
  obtain ⟨a', ha', haa'⟩ := exec_readsAlike (decodeUnit_concerns u w) hs ha
  obtain ⟨x, hx⟩ : ∃ x, clockEdge (encode (decodeUnit u w)) s' = .next x := by
    refine clockEdge_answers fun v b hproc => ?_
    by_cases hv : u = v
    · subst hv
      rw [hown] at hproc
      rw [hproc] at ha'
      obtain ⟨hmark, -⟩ := exec_procOf_next.1 ha'
      exact hmark
    · rw [hother v hv] at hproc
      simp at hproc
  refine ⟨x, hx, ?_, fun v hv => ?_⟩
  · obtain ⟨c, hc, hcx⟩ := clockEdge_unit hx u
    rw [hown, ha'] at hc
    cases hc
    exact agreeOn_trans (agreeOn_symm hcx) (agreeOn_trans (agreeOn_symm haa') hat)
  · obtain ⟨c, hc, hcx⟩ := clockEdge_unit hx v
    rw [hother v hv, exec_holdOf] at hc
    cases hc
    exact readsAlike_trans (readsAlike_setCnt v v 0 s') (readsAlike_of_agreeOn hcx)

/-- The operations of some units of a step, issued one in each step, leave those units what the whole step
leaves them, show its counts, and leave the other units' registers alone. -/
theorem runWords_issued {w : CommandWord} {s t s' : State} {order : List UnitId}
    (hrst : CommandWord.rst w = false) (h : clockEdge w s = .next t) (hnodup : order.Nodup)
    (hs : ∀ u ∈ order, readsAlike u s s') :
    ∃ r, runWords (order.map fun u => encode (decodeUnit u w)) s' = some r ∧
      (∀ u ∈ order, sameRegister u r.final t) ∧ (∀ u ∉ order, sameRegister u r.final s') ∧
      (order.zip r.outputs).map (fun p => p.2.of p.1) = order.map t.cnt := by
  induction order generalizing s' with
  | nil => exact ⟨_, runWords_nil s', by simp, fun u _ => by cases u <;> rfl, rfl⟩
  | cons u order ih =>
    obtain ⟨hu, hnodup⟩ := List.nodup_cons.1 hnodup
    obtain ⟨hsu, hs⟩ := List.forall_mem_cons.1 hs
    have hqueue := fun v => readsAlike_withInputs v s' (order.map fun u => encode (decodeUnit u w))
    obtain ⟨x, hx, hagree, hothers⟩ := clockEdge_alone hrst h (readsAlike_trans hsu (hqueue u))
    have hlater : ∀ v, u ≠ v → readsAlike v s' x := fun v hv => readsAlike_trans (hqueue v) (hothers v hv)
    obtain ⟨q, hq, hdone, hkept, hcounts⟩ := ih hnodup fun v hv =>
      readsAlike_trans (hs v hv) (hlater v fun huv => hu (huv ▸ hv))
    obtain ⟨hreg, -, hcnt, -⟩ := agreeOn_iff.1 hagree
    refine ⟨⟨q.final, x.outputs :: q.outputs⟩, runWords_cons.2 ⟨x, q, hx, hq, rfl⟩, ?_, fun v hv => ?_, ?_⟩
    · exact List.forall_mem_cons.2 ⟨sameRegister_trans (hkept u hu) hreg, hdone⟩
    · obtain ⟨hvu, hv⟩ := not_or.1 (mt List.mem_cons.2 hv)
      obtain ⟨hsame, -⟩ := hlater v (Ne.symm hvu)
      exact sameRegister_trans (hkept v hv) (sameRegister_symm hsame)
    · rw [List.zip_cons_cons, List.map_cons, List.map_cons, hcounts, State.outputs_of, hcnt]

/-- The sample a unit is given is the word's `din` (R60, R97). -/
theorem sampleOf_eq_din {w : CommandWord} {u : UnitId} {b : Byte} (h : sampleOf u w = some b) :
    b = CommandWord.din w := by
  cases hrst : CommandWord.rst w with
  | true =>
    have hreset : decodeUnit u w = .reset := if_pos hrst
    rw [sampleOf, hreset] at h
    cases h
  | false => exact (decodeUnit_selectable hrst u).operand_eq b h

/-- Settles O35: what one unit is left with by `clockEdge_unit`, three steps for one by `runWords_issued`. -/
theorem unitsActIndependently : Obligations.UnitsActIndependently := by
  refine ⟨fun w s t h u => clockEdge_unit h u, fun w u b => sampleOf_eq_din,
    fun w s t order hrst hperm h => ?_⟩
  have hnodup : order.Nodup := hperm.nodup_iff.2 (by decide)
  have hall : ∀ u, u ∈ order := fun u => hperm.mem_iff.2 (by cases u <;> decide)
  obtain ⟨r, hr, hdone, -, hcounts⟩ :=
    runWords_issued hrst h hnodup fun u _ => readsAlike_of_agreeOn (agreeOn_refl u s)
  exact ⟨r, hr, fun u => hdone u (hall u), hcounts⟩

end Sys2Proof.Machine
end

section
/-! PROOFS. What a word selects for one unit, bit by bit, and what an initialisation and a hold leave of
that unit (`spec/30_encoding.md` R62, `40_matcher_interface.md` R98). -/

namespace Sys2Proof.Machine

/-! ### The operation a unit selects, by its three bits (R62, R183) -/

/-- Without `rst`, `init[u]` selects the initialisation, whatever `en[u]` is. -/
theorem decodeUnit_of_init {u : UnitId} {w : CommandWord} (hrst : CommandWord.rst w = false)
    (hinit : CommandWord.init w u = true) : decodeUnit u w = .initOf u := by
  rw [decodeUnit, if_neg (by simp [hrst]), if_pos hinit]

/-- Without `rst` and `init[u]`, `en[u]` selects the processing of `din`. -/
theorem decodeUnit_of_en {u : UnitId} {w : CommandWord} (hrst : CommandWord.rst w = false)
    (hinit : CommandWord.init w u = false) (hen : CommandWord.en w u = true) :
    decodeUnit u w = .procOf u (CommandWord.din w) := by
  rw [decodeUnit, if_neg (by simp [hrst]), if_neg (by simp [hinit]), if_pos hen]

/-- With none of its three bits set a unit holds. -/
theorem decodeUnit_of_clear {u : UnitId} {w : CommandWord} (hrst : CommandWord.rst w = false)
    (hinit : CommandWord.init w u = false) (hen : CommandWord.en w u = false) :
    decodeUnit u w = .holdOf u := by
  rw [decodeUnit, if_neg (by simp [hrst]), if_neg (by simp [hinit]), if_neg (by simp [hen])]

/-- `rst` and `init[u]` are the bits that initialise a unit. -/
theorem initsUnit_of_rst_or_init {u : UnitId} {w : CommandWord}
    (h : CommandWord.rst w = true ∨ CommandWord.init w u = true) : initsUnit u w = true := by
  cases hrst : CommandWord.rst w with
  | true =>
    have hreset : decodeUnit u w = .reset := if_pos hrst
    rw [initsUnit, hreset, Instr.initialises_reset]
  | false =>
    have hinit : CommandWord.init w u = true := by simpa [hrst] using h
    rw [initsUnit, decodeUnit_of_init hrst hinit, Instr.initialises_initOf]

/-- A clock edge answers where every unit the word gives a sample has been initialised (U1). -/
theorem clockEdge_answers_of_samples {w : CommandWord} {s : State}
    (h : ∀ u, sampleOf u w ≠ none → s.marked u = true) : ∃ t, clockEdge w s = .next t := by
  refine clockEdge_answers fun u b hproc => h u ?_
  rw [sampleOf, hproc, Instr.operand?_procOf]
  exact Option.some_ne_none b

/-! ### An initialisation and a hold, seen from their unit (R98) -/

/-- A word that initialises a unit leaves its register as for an empty stream and shows 0. -/
theorem clockEdge_of_inits {u : UnitId} {w : CommandWord} {s t : State} (hw : initsUnit u w = true)
    (h : clockEdge w s = .next t) : registerFits u [] t ∧ t.cnt u = 0 := by
  have hfits := clockEdge_registerFits (S := []) (.inr hw) h
  have hsample : sampleOf u w = none := operand?_of_initialises hw
  rw [initsUnit] at hw
  rw [streamStep, if_pos hw] at hfits
  exact ⟨hfits, by rw [clockEdge_cnt h u, hsample, Option.elim_none]⟩

/-- A word that holds a unit leaves its register as it was and shows 0. -/
theorem clockEdge_of_hold {u : UnitId} {w : CommandWord} {s t : State} (hw : decodeUnit u w = .holdOf u)
    (h : clockEdge w s = .next t) : sameRegister u s t ∧ t.cnt u = 0 := by
  obtain ⟨a, ha, hagree⟩ := clockEdge_unit h u
  rw [hw, exec_holdOf] at ha
  cases ha
  obtain ⟨hreg, -, hcnt, -⟩ := agreeOn_iff.1 hagree
  have hheld : sameRegister u s (s.setCnt u 0) := by cases u <;> rfl
  exact ⟨sameRegister_trans hheld hreg, by simpa using hcnt.symm⟩

/-- So does a run of such words, in each of its steps. -/
theorem runWords_of_holds {u : UnitId} {ws : List CommandWord} {s : State} {r : Run}
    (hws : ∀ w ∈ ws, decodeUnit u w = .holdOf u) (h : runWords ws s = some r) :
    sameRegister u s r.final ∧ ∀ c ∈ r.outputs, c.of u = 0 := by
  induction ws generalizing s r with
  | nil => cases h; exact ⟨by cases u <;> rfl, by simp⟩
  | cons w ws ih =>
    obtain ⟨hw, hws⟩ := List.forall_mem_cons.1 hws
    obtain ⟨t, q, hedge, hrest, rfl⟩ := runWords_cons.1 h
    obtain ⟨hst, hcnt⟩ := clockEdge_of_hold hw hedge
    obtain ⟨htq, houts⟩ := ih hws hrest
    have hqueue : sameRegister u s { s with inputs := ws } := by cases u <;> rfl
    exact ⟨sameRegister_trans hqueue (sameRegister_trans hst htq),
      List.forall_mem_cons.2 ⟨by rw [State.outputs_of, hcnt], houts⟩⟩

end Sys2Proof.Machine
end

section
/-! PROOFS. The unit StateMachine (`spec/41_state_machine.md` R111 to R117). -/

namespace Sys2Proof.Machine

/-! ### `INIT.SM` and `HOLD.SM` (R113, R114) -/

/-- Settles O2: the step by `clockEdge_of_inits`. -/
theorem initSmEffect : Obligations.InitSmEffect := by
  have hedge : ∀ (w : CommandWord) (s t : State), w.getLsbD 14 = true ∨ w.getLsbD 11 = true →
      clockEdge w s = .next t → t.smPos = .p0 ∧ t.cntSm = 0 :=
    fun w s t hbits => clockEdge_of_inits (u := .sm) (initsUnit_of_rst_or_init hbits)
  refine ⟨fun s => rfl, fun w => decodeUnit_of_init (u := .sm), hedge, fun s _ => ?_⟩
  have hnone : ∀ u, sampleOf u 0x0800 = none := fun u => by cases u <;> decide
  obtain ⟨t, ht⟩ := clockEdge_answers_of_samples (s := s) fun u hu => absurd (hnone u) hu
  exact ⟨t, ht, hedge 0x0800 s t (by decide) ht⟩

/-- Settles O5: the runs by `runWords_of_holds`. -/
theorem holdSmEffect : Obligations.HoldSmEffect := by
  refine ⟨fun s => rfl, fun w => decodeUnit_of_clear (u := .sm), fun ws s r hws h => ?_,
    fun s hpos hsw hlut => ?_⟩
  · obtain ⟨hreg, houts⟩ := runWords_of_holds (u := .sm) hws h
    exact ⟨hreg.symm, houts⟩
  · have hhold : decodeUnit .sm 0x06AA = .holdOf .sm := by decide
    have hmarks : ∀ u, sampleOf u 0x06AA ≠ none → s.marked u = true
      | .sm, h => absurd (by decide) h
      | .sw, _ => hsw
      | .lut, _ => hlut
    obtain ⟨t, ht⟩ := clockEdge_answers_of_samples hmarks
    obtain ⟨hreg, hcnt⟩ := clockEdge_of_hold hhold ht
    exact ⟨t, ht, hreg.symm.trans hpos, hcnt⟩

/-! ### The automaton (R111, R115) -/

/-- Settles O12: the table is the definition, row by row. -/
theorem smBitTable : Obligations.SmBitTable := ⟨rfl, rfl, rfl, rfl, rfl, rfl⟩

/-- One bit-step on a counter written as a number (R101, R112). -/
theorem smAdvance_ofNat (p : Pos) (k : Nat) (bit : Bool) : smAdvance (p, BitVec.ofNat 4 k) bit =
    ((smBit p bit).1, BitVec.ofNat 4 (k + (smBit p bit).2.toNat)) := by
  rw [smAdvance]
  cases (smBit p bit).2 with
  | false => rfl
  | true => rw [Bool.toNat_true, BitVec.ofNat_add]; rfl

/-- In `P2` further ones change nothing (R111). -/
theorem foldl_smAdvance_ones_p2 (k : Nat) (n : Count) :
    (List.replicate k true).foldl smAdvance (.p2, n) = (.p2, n) := by
  induction k with
  | zero => rfl
  | succ k ih => rw [List.replicate_succ, List.foldl_cons]; exact ih

/-- Two ones lead to `P2` from every position, and none of the ones counts (R115). -/
theorem foldl_smAdvance_ones (p : Pos) (k : Nat) (n : Count) :
    (List.replicate (k + 2) true).foldl smAdvance (p, n) = (.p2, n) := by
  have htwo : smAdvance (smAdvance (p, n) true) true = (.p2, n) := by cases p <;> rfl
  rw [List.replicate_succ, List.replicate_succ, List.foldl_cons, List.foldl_cons, htwo,
    foldl_smAdvance_ones_p2]

/-- Settles O15: the ones by `foldl_smAdvance_ones`, the zero by the table's one matching row. -/
theorem runOfOnesIsOneMatch : Obligations.RunOfOnesIsOneMatch := by
  intro p k n hk
  obtain ⟨k, rfl⟩ := Nat.exists_eq_add_of_le' hk
  have hones := foldl_smAdvance_ones p k n
  refine ⟨hones, ?_⟩
  rw [List.foldl_append, hones]
  rfl

/-! ### `PROC.SM` (R112) -/

/-- `PROC.SM` answers exactly on an initialised unit, and writes only the position and the output. -/
theorem exec_procSm_next {b : Byte} {s t : State} : exec (.procSm b) s = .next t ↔
    s.smMark = true ∧ t = { s with smPos := (smScan s.smPos b).1, cntSm := (smScan s.smPos b).2 } := by
  rw [exec_procSm, procUnit_next]
  rfl

/-- A sample of zeros completes the match a position `P2` is waiting for, and no other (R112 (a)). -/
theorem smScan_zeros (p : Pos) : smScan p 0x00 = (.p0, if p = .p2 then 1 else 0) := by
  cases p <;> rfl

/-- A sample of ones completes no match (R112 (b)). -/
theorem smScan_ones (p : Pos) : smScan p 0xFF = (.p2, 0) := foldl_smAdvance_ones p 6 0

/-- Settles O8: the eight bit-steps by `smAdvance_ofNat`, the bound by `smScan_count_le`, and what the sample
leaves by `smScan_pos`. -/
theorem procSmEffect : Obligations.ProcSmEffect := by
  refine ⟨fun s b hmark => ?_, fun w => decodeUnit_of_en (u := .sm), fun s t b h => ?_, fun s hmark => ?_,
    fun s t s' t' b b' h h' hlast => ?_, fun w s t b hop h => hop ▸ clockEdge_unit h .sm⟩
  · have hstart : (s.smPos, (0 : Count)) = (s.smPos, BitVec.ofNat 4 0) := rfl
    refine exec_procSm_next.2 ⟨hmark, ?_⟩
    simp only [smScan, sampleBits, Config.bitOrder, List.map_cons, List.map_nil, List.foldl_cons,
      List.foldl_nil, hstart, smAdvance_ofNat, Nat.zero_add]
  · obtain ⟨-, rfl⟩ := exec_procSm_next.1 h
    exact smScan_count_le s.smPos b
  · have hnext := fun b => exec_procSm_next (b := b).2 ⟨hmark, rfl⟩
    refine ⟨⟨_, hnext 0x00, ?_⟩, ⟨_, hnext 0xFF, ?_⟩, fun hpos => ⟨_, hnext 0x80, ?_⟩,
      fun hpos => ⟨_, hnext 0xC0, ?_⟩⟩
    · simp only [smScan_zeros, and_self]
    · simp only [smScan_ones, and_self]
    · rw [hpos]; rfl
    · rw [hpos]; exact ⟨rfl, rfl⟩
  · obtain ⟨-, rfl⟩ := exec_procSm_next.1 h
    obtain ⟨-, rfl⟩ := exec_procSm_next.1 h'
    simp only [smScan_pos, hlast]

/-! ### The position after a sample, and the reference (R116, R117) -/

/-- Settles O13: what a sample leaves by `smScan_pos`, the reasons by the table. -/
theorem positionAfterSample : Obligations.PositionAfterSample := by
  refine ⟨fun s t b h => ?_, ⟨rfl, rfl, rfl, rfl⟩, fun p => ?_, rfl⟩
  · obtain ⟨-, rfl⟩ := exec_procSm_next.1 h
    exact smScan_pos s.smPos b
  · cases p <;> exact ⟨rfl, rfl, rfl⟩

/-- Contexts of one position have the same counts: the automaton cannot tell them apart (R117). -/
theorem stepCount_eq_of_posOf_eq {c c' : Context} (h : posOf c = posOf c') (b : Byte) :
    stepCount c b = stepCount c' b := by
  rw [← smScan_posOf_count, h, smScan_posOf_count]

/-- Settles O14: the count by `smScan_posOf_count`, which holds of the automaton bit by bit. -/
theorem smAgreesWithReference : Obligations.SmAgreesWithReference := by
  refine ⟨fun c b s hmark hpos => ⟨exec_procSm_next.2 ⟨hmark, ?_⟩, ?_⟩, rfl,
    stepCount_eq_of_posOf_eq rfl⟩
  · rw [hpos, smScan_pos, ← smScan_posOf_count, BitVec.ofNat_toNat, BitVec.setWidth_eq]
  · exact (stepCount_le c b).trans_lt (by decide)

end Sys2Proof.Machine
end

section
/-! PROOFS. The unit SlidingWindow (`spec/42_sliding_window.md` R125 to R129). -/

namespace Sys2Proof.Machine

/-! ### The combined value and its windows (R67, R68, R125) -/

/-- The combined value is `{prev, cur}`: the two bytes do not overlap (R67). -/
theorem combine_eq_append (prev cur : Byte) : combine prev cur = prev ++ cur := by
  refine BitVec.eq_of_getLsbD_eq fun k hk => ?_
  rw [BitVec.getLsbD_append]
  by_cases h : k < 8
  · simp [combine, h, hk]
  · have hcur : cur.getLsbD k = false := BitVec.getLsbD_of_ge cur k (by omega)
    simp [combine, h, hcur, hk]

/-- A window is the slice of three bits from bit `i` up (R68). -/
theorem window_eq_extractLsb' (comb : Combined) (i : Nat) : window comb i = comb.extractLsb' i 3 := by
  refine BitVec.eq_of_getLsbD_eq fun k hk => ?_
  rw [window_getLsbD comb i hk, BitVec.getLsbD_extractLsb', decide_eq_true hk, Bool.true_and]

/-- The bits of a window, written out. -/
theorem window_eq_bits (comb : Combined) (i : Nat) : window comb i =
    BitVec.ofBool (comb.getLsbD (i + 2)) ++ BitVec.ofBool (comb.getLsbD (i + 1)) ++
      BitVec.ofBool (comb.getLsbD i) := by
  refine BitVec.eq_of_getLsbD_eq fun k hk => ?_
  rw [window_getLsbD comb i hk, BitVec.getLsbD_append, BitVec.getLsbD_append]
  interval_cases k <;> simp

/-- The low byte of the combined value is the current sample. -/
theorem combine_getLsbD_cur (prev cur : Byte) {k : Nat} (hk : k < 8) :
    (combine prev cur).getLsbD k = cur.getLsbD k := by
  rw [combine_eq_append, BitVec.getLsbD_append, if_pos hk]

/-- Its high byte is the previous one. -/
theorem combine_getLsbD_prev (prev cur : Byte) (k : Nat) :
    (combine prev cur).getLsbD (8 + k) = prev.getLsbD k := by
  rw [combine_eq_append, BitVec.getLsbD_append, if_neg (by omega), Nat.add_sub_cancel_left]

/-- Window 7 is of two bits of the previous sample and one of the current (R126 (a)). -/
theorem windowMatches_seven (prev cur : Byte) : windowMatches (combine prev cur) 7 =
    (prev.getLsbD 1 && prev.getLsbD 0 && !cur.getLsbD 7) := by
  rw [windowMatches_eq, combine_getLsbD_prev prev cur 1, combine_getLsbD_prev prev cur 0,
    combine_getLsbD_cur prev cur (by decide)]

/-- Window 6 is of one bit of the previous sample and two of the current (R126 (a)). -/
theorem windowMatches_six (prev cur : Byte) : windowMatches (combine prev cur) 6 =
    (prev.getLsbD 0 && cur.getLsbD 7 && !cur.getLsbD 6) := by
  rw [windowMatches_eq, combine_getLsbD_prev prev cur 0, combine_getLsbD_cur prev cur (by decide),
    combine_getLsbD_cur prev cur (by decide)]

/-- Windows 7 and 6 both hold bit 0 of the previous sample where the pattern has a 1, so after a sample
ending in 0 they match nothing (R126 (c), R127). -/
theorem windowMatches_of_prev_even {prev : Byte} (cur : Byte) (h : prev.getLsbD 0 = false) :
    windowMatches (combine prev cur) 7 = false ∧ windowMatches (combine prev cur) 6 = false := by
  rw [windowMatches_seven, windowMatches_six, h, Bool.and_false, Bool.false_and, Bool.false_and]
  exact ⟨rfl, rfl⟩

/-! ### `SWCOUNT` (R125, R129) -/

/-- `SWCOUNT` is the number of the eight positions at which the window matches (R125). -/
theorem swCount_toNat_eq_countP (prev cur : Byte) :
    (swCount prev cur).toNat = Config.bitOrder.countP (windowMatches (combine prev cur)) := by
  rw [swCount, toNat_foldl_countIf _ _ _ (by decide), foldl_count]
  exact Nat.zero_add _

/-- At most three of the eight windows match (R99, R125). -/
theorem swCount_le (prev cur : Byte) : (swCount prev cur).toNat ≤ Config.cntMax :=
  (swCount_toNat prev cur).trans_le (stepCount_le _ cur)

/-- Samples equal in bits 1 and 0 are the same previous sample to `SWCOUNT` (R129). -/
theorem swCount_congr_prev {p q : Byte} (h : p.extractLsb' 0 2 = q.extractLsb' 0 2) (b : Byte) :
    swCount p b = swCount q b :=
  BitVec.eq_of_toNat_eq (by rw [swCount_toNat, swCount_toNat, h])

/-- In a sample of ones every window ends in a 1, where the pattern has its 0 (R126 (d)). -/
theorem swCount_ones (p : Byte) : swCount p 0xFF = 0 := by
  refine BitVec.eq_of_toNat_eq ((swCount_toNat_eq_countP p 0xFF).trans (List.countP_eq_zero.2 fun i hi => ?_))
  have hlt : i < 8 := by revert i; decide
  have hone : (0xFF : Byte).getLsbD i = true := by interval_cases i <;> rfl
  rw [windowMatches_eq, combine_getLsbD_cur p 0xFF hlt, hone, Bool.not_true, Bool.and_false]
  exact Bool.false_ne_true

/-- Settles O16: the count is over the positions as a list, and a count does not see the order. -/
theorem swCountCountsWindows : Obligations.SwCountCountsWindows := by
  intro prev cur
  have hslice : ∀ i, window (combine prev cur) i = (prev ++ cur).extractLsb' i 3 := fun i => by
    rw [window_eq_extractLsb', combine_eq_append]
  refine ⟨combine_eq_append prev cur, fun i _ => hslice i, fun order horder => ?_, swCount_le prev cur⟩
  simp only [← hslice, ← List.countP_eq_length_filter]
  exact (swCount_toNat_eq_countP prev cur).trans (horder.countP_eq _).symm

/-- Settles O17: `swCount_toNat` ties the count to the reference, which is one for all contexts of one
position of the automaton. -/
theorem onlyTwoBitsOfPrevMatter : Obligations.OnlyTwoBitsOfPrevMatter := by
  refine ⟨fun p q b h => swCount_congr_prev h b, swCount_toNat, fun p p' b h h' => BitVec.eq_of_toNat_eq ?_⟩
  rw [swCount_toNat, swCount_toNat, h, h']
  exact stepCount_eq_of_posOf_eq (c := 0b10) (c' := 0b00) rfl b

/-! ### `INIT.SW` and `HOLD.SW` (R127, R128) -/

/-- Settles O3: the step by `clockEdge_of_inits`. -/
theorem initSwEffect : Obligations.InitSwEffect := by
  have hedge : ∀ (w : CommandWord) (s t : State), w.getLsbD 14 = true ∨ w.getLsbD 12 = true →
      clockEdge w s = .next t → t.swPrev = 0x00 ∧ t.cntSw = 0 :=
    fun w s t hbits => clockEdge_of_inits (u := .sw) (initsUnit_of_rst_or_init hbits)
  refine ⟨fun s => rfl, fun w => decodeUnit_of_init (u := .sw), hedge,
    fun b => windowMatches_of_prev_even b rfl, fun s _ => ?_⟩
  have hnone : ∀ u, sampleOf u 0x1000 = none := fun u => by cases u <;> decide
  obtain ⟨t, ht⟩ := clockEdge_answers_of_samples (s := s) fun u hu => absurd (hnone u) hu
  exact ⟨t, ht, hedge 0x1000 s t (by decide) ht⟩

/-- `PROC.SW` answers exactly on an initialised unit, counts with the old previous sample, and writes only
the previous sample and the output (R126). -/
theorem exec_procSw_next {b : Byte} {s t : State} : exec (.procSw b) s = .next t ↔
    s.swMark = true ∧ t = { s with swPrev := b, cntSw := swCount s.swPrev b } := by
  rw [exec_procSw, procUnit_next]
  rfl

/-- Settles O6: the held step by `clockEdge_of_hold`, the one it is compared with by `exec_procSw_next`. -/
theorem holdSwEffect : Obligations.HoldSwEffect := by
  refine ⟨fun s => rfl, fun w => decodeUnit_of_clear (u := .sw), fun s hprev hsm hsw => ⟨?_, ?_⟩⟩
  · have hhold : decodeUnit .sw 0x0100 = .holdOf .sw := by decide
    have hmarks : ∀ u, sampleOf u 0x0100 ≠ none → s.marked u = true
      | .sm, _ => hsm
      | .sw, h => absurd (by decide) h
      | .lut, h => absurd (by decide) h
    obtain ⟨t, ht⟩ := clockEdge_answers_of_samples hmarks
    obtain ⟨hreg, hcnt⟩ := clockEdge_of_hold hhold ht
    exact ⟨t, ht, hreg.symm.trans hprev, hcnt⟩
  · refine ⟨_, exec_procSw_next.2 ⟨hsw, rfl⟩, ?_⟩
    rw [hprev]
    rfl

/-! ### `PROC.SW` (R126) -/

/-- After `11` a sample of zeros completes the match in window 7, and no other (R126 (b)). -/
theorem swCount_zeros_of_prev_ones {p : Byte} (h : p.extractLsb' 0 2 = 0b11) :
    windowMatches (combine p 0x00) 7 = true ∧ swCount p 0x00 = 1 := by
  have hbit : ∀ k < 2, p.getLsbD k = (0b11 : Context).getLsbD k := fun k hk => by
    rw [← h, BitVec.getLsbD_extractLsb', decide_eq_true hk, Bool.true_and, Nat.zero_add]
  refine ⟨?_, (swCount_congr_prev (q := 0x03) h 0x00).trans rfl⟩
  rw [windowMatches_seven, hbit 1 (by decide), hbit 0 (by decide)]
  rfl

/-- Settles O9: the whole state by `exec_procSw_next`, the corner cases by the facts about the windows and
`SWCOUNT`. -/
theorem procSwEffect : Obligations.ProcSwEffect := by
  refine ⟨fun s b hmark => exec_procSw_next.2 ⟨hmark, rfl⟩, fun w => decodeUnit_of_en (u := .sw), swCount_le,
    fun p b => ?_, fun p => swCount_zeros_of_prev_ones, fun p b => windowMatches_of_prev_even b, swCount_ones,
    fun p q b h => swCount_congr_prev h b, by decide, fun s hmark hprev => exec_procSw_next.2 ⟨hmark, ?_⟩⟩
  · rw [window_eq_bits, window_eq_bits, combine_getLsbD_prev p b 1, combine_getLsbD_prev p b 0,
      combine_getLsbD_cur p b (by decide), combine_getLsbD_cur p b (by decide)]
    exact ⟨rfl, rfl⟩
  · rw [hprev]
    rfl

end Sys2Proof.Machine
end

section
/-! PROOFS. The table of the unit LUT: that nothing writes it, its build, and its entries
(`spec/43_lut.md` R140, R146 to R149). -/

namespace Sys2Proof.Machine

/-! ### No operation writes the ROM (R146) -/

/-- No operation writes the ROM (R49). -/
theorem exec_rom {i : Instr} {s t : State} (h : exec i s = .next t) : t.rom = s.rom :=
  exec_keeps (P := fun a => a.rom = s.rom) (by simp) (by simp) (by simp) rfl h

/-- No run does, whatever its words. -/
theorem runWords_rom {ws : List CommandWord} {s : State} {r : Run} (h : runWords ws s = some r) :
    r.final.rom = s.rom := by
  induction ws generalizing s r with
  | nil => cases h; rfl
  | cons w ws ih =>
    obtain ⟨t, q, hedge, hrest, rfl⟩ := runWords_cons.1 h
    have hstep := clockEdge_rom hedge
    exact (ih hrest).trans hstep

/-- Settles O23, by induction on the words (`runWords_rom`). -/
theorem romNeverWritten : Obligations.RomNeverWritten :=
  ⟨fun _ _ _ => exec_rom, fun _ _ _ h => ⟨runWords_rom h, fun a => by rw [runWords_rom h]⟩⟩

/-! ### The build (R140) -/

/-- One write of the build: index `c` gets its entry (R140). -/
def buildWrite (m : Rom) (c : Nat) : Rom :=
  romWrite m (BitVec.ofNat 10 c) (builtEntry (BitVec.ofNat 10 c))

/-- The build is these writes, one for each index in turn. -/
theorem lutBuild_eq_foldl (m : Rom) : lutBuild m = (List.range Config.lutDepth).foldl buildWrite m := rfl

/-- A write of the build gives its index the built entry and leaves every other entry alone. -/
theorem romRead_buildWrite {m : Rom} (hm : m.wf = true) (c : Nat) (a : LutIndex) :
    romRead (buildWrite m c) a = if a = BitVec.ofNat 10 c then builtEntry a else romRead m a := by
  rw [buildWrite, romRead_romWrite hm]
  split_ifs with h
  · rw [h]
  · rfl

/-- After the writes at `l`, an entry that was built before them or is written by one of them is built. -/
theorem romRead_foldl_buildWrite {m : Rom} (hm : m.wf = true) {l : List Nat} {a : LutIndex}
    (h : romRead m a = builtEntry a ∨ ∃ c ∈ l, a = BitVec.ofNat 10 c) :
    romRead (l.foldl buildWrite m) a = builtEntry a := by
  induction l generalizing m with
  | nil => simpa using h
  | cons c l ih =>
    refine ih (m := buildWrite m c) (romWrite_wf hm _ _) ?_
    rw [romRead_buildWrite hm]
    by_cases ha : a = BitVec.ofNat 10 c
    · exact .inl (if_pos ha)
    · rw [if_neg ha]
      simpa [ha] using h

/-- The build writes every index, so every entry of its result is built. -/
theorem romRead_lutBuild {m : Rom} (hm : m.wf = true) (a : LutIndex) :
    romRead (lutBuild m) a = builtEntry a := by
  have hindex : a = BitVec.ofNat 10 a.toNat := by rw [BitVec.ofNat_toNat, BitVec.setWidth_eq]
  exact romRead_foldl_buildWrite hm (.inr ⟨a.toNat, List.mem_range.2 a.isLt, hindex⟩)

/-- In canonical form only the memory that lists nothing reads as built everywhere (log 8). -/
theorem eq_nil_of_romRead_eq_builtEntry {m : Rom} (hm : m.wf = true)
    (h : ∀ a, romRead m a = builtEntry a) : m = [] := by
  cases m with
  | nil => rfl
  | cons p m =>
    obtain ⟨b, v⟩ := p
    simp only [Rom.wf, romWfFrom, Bool.and_eq_true, decide_eq_true_eq, bne_iff_ne] at hm
    obtain ⟨⟨⟨-, hdepth⟩, hlisted⟩, -⟩ := hm
    have hb : (BitVec.ofNat 10 b).toNat = b := Nat.mod_eq_of_lt hdepth
    have hread := h (BitVec.ofNat 10 b)
    rw [romRead_cons, if_pos hb] at hread
    exact absurd hread hlisted

/-- Settles O18: the 1024 writes by `romRead_foldl_buildWrite`, and the canonical form fixes the list. -/
theorem lutBuildGivesTheRom : Obligations.LutBuildGivesTheRom := by
  intro m hm
  exact ⟨eq_nil_of_romRead_eq_builtEntry (lutBuild_wf hm) (romRead_lutBuild hm), romRead_lutBuild hm⟩

/-! ### The closed form of an entry (R147) -/

/-- An address is its context and its sample (R69, R147). -/
theorem context_append_sample (c : LutIndex) : c.extractLsb' 8 2 ++ c.extractLsb' 0 8 = c :=
  (BitVec.extractLsb'_append_extractLsb'_eq_extractLsb' rfl).trans BitVec.extractLsb'_eq_self

/-- An entry is the number of windows of its own address that hold the pattern. -/
theorem romRead_reset_toNat (c : LutIndex) :
    (romRead State.reset.rom c).toNat = (List.range 8).countP (patternAt c.getLsbD) := by
  obtain ⟨-, hentry⟩ := romBuilt_nil
  have horder : Config.bitOrder = (List.range 8).reverse := rfl
  rw [State.reset, hentry, stepCount_eq_countP, context_append_sample, horder, List.countP_reverse]

/-- The entry at `{k, b}` is the reference's count of `b` in the context `k`. -/
theorem romRead_reset_append (k : Context) (b : Byte) :
    (romRead State.reset.rom (k ++ b)).toNat = stepCount k b := by
  obtain ⟨-, hentry⟩ := romBuilt_nil
  rw [State.reset, hentry, BitVec.extractLsb'_append_eq_left, BitVec.extractLsb'_append_eq_right]

/-- The lowest three bits of a number are 1, 1, 0 where it is 6 modulo 8. -/
theorem mod_eight_eq_six (n : Nat) : (n % 8 == 6) = patternAt n.testBit 0 := by
  have hlow : ∀ m < 8, (m == 6) = patternAt m.testBit 0 := by decide
  have hbit : ∀ k < 3, (n % 8).testBit k = n.testBit k := fun k hk => by
    rw [show 8 = 2 ^ 3 from rfl, Nat.testBit_mod_two_pow, decide_eq_true hk, Bool.true_and]
  rw [hlow _ (Nat.mod_lt n (by decide)), patternAt, hbit _ (by decide), hbit _ (by decide), hbit _ (by decide)]
  rfl

/-- The pattern at bit `i` of a value, as the arithmetic of its number. -/
theorem patternAt_getLsbD {w : Nat} (v : BitVec w) (i : Nat) :
    patternAt v.getLsbD i = ((v.toNat >>> i) % 8 == 6) := by
  rw [mod_eight_eq_six]
  simp only [patternAt, Nat.testBit_shiftRight, BitVec.testBit_toNat, Nat.zero_add, Nat.add_comm i]

/-- The same as R147 spells it. -/
theorem shifted_and_seven_eq_six (c : LutIndex) (i : Nat) :
    ((c >>> i) &&& 0b111 == 0b110) = patternAt c.getLsbD i := by
  rw [patternAt_getLsbD, Bool.eq_iff_iff, beq_iff_eq, beq_iff_eq, ← BitVec.toNat_inj, BitVec.toNat_and,
    BitVec.toNat_ushiftRight]
  exact Eq.congr_left (Nat.and_two_pow_sub_one_eq_mod _ 3)

/-- Settles O19: the entry as a number of windows, and as the reference's count. -/
theorem romClosedForm : Obligations.RomClosedForm := by
  refine ⟨fun c => ?_, romRead_reset_append⟩
  simp only [romRead_reset_toNat, shifted_and_seven_eq_six, List.countP_eq_length_filter]

/-! ### The facts about the whole table (R148) -/

/-- Window `i` of the address `c`, as a number, holds the pattern. -/
def addressMatches (c i : Nat) : Bool := (c >>> i) % 8 == 0b110

/-- Every number below `n` is half of two numbers below `2 * n`. -/
theorem countP_range_two_mul_div_two (p : Nat → Bool) (n : Nat) :
    (List.range (2 * n)).countP (fun c => p (c / 2)) = 2 * (List.range n).countP p := by
  induction n with
  | zero => rfl
  | succ n ih =>
    have heven : 2 * n / 2 = n := by omega
    have hodd : (2 * n + 1) / 2 = n := by omega
    rw [Nat.mul_succ, List.range_succ, List.range_succ, List.range_succ (n := n), List.countP_append,
      List.countP_append, List.countP_append, ih, List.countP_singleton, List.countP_singleton,
      List.countP_singleton, heven, hodd]
    omega

/-- The `i` lowest bits are free where only the others are looked at. -/
theorem countP_range_shiftRight (p : Nat → Bool) (i n : Nat) :
    (List.range (2 ^ i * n)).countP (fun c => p (c >>> i)) = 2 ^ i * (List.range n).countP p := by
  induction i with
  | zero => simp
  | succ i ih =>
    have hshift : ∀ c, c >>> (i + 1) = (c / 2) >>> i := fun c => by
      rw [Nat.add_comm, Nat.shiftRight_add, Nat.shiftRight_one]
    simp only [hshift, Nat.pow_succ', Nat.mul_assoc, ← ih]
    exact countP_range_two_mul_div_two (fun c => p (c >>> i)) _

/-- One number in eight ends in 110. -/
theorem countP_range_mod_eight (n : Nat) : (List.range (8 * n)).countP (fun c => c % 8 == 6) = n := by
  rw [countP_range_eight_mul]
  simp only [Nat.mul_add_mod]
  rw [List.map_const', List.sum_replicate, List.length_range, smul_eq_mul]
  exact Nat.mul_one n

/-- Each window position matches for 128 of the 1024 addresses: the other seven bits are free. -/
theorem countP_addressMatches {i : Nat} (hi : i < 8) :
    (List.range 1024).countP (fun c => addressMatches c i) = 128 := by
  have hdepth : 1024 = 2 ^ i * (8 * 2 ^ (7 - i)) := by interval_cases i <;> rfl
  have hfree : 2 ^ i * 2 ^ (7 - i) = 128 := by interval_cases i <;> rfl
  have hcount := countP_range_shiftRight (fun c => c % 8 == 6) i (8 * 2 ^ (7 - i))
  rwa [← hdepth, countP_range_mod_eight, hfree] at hcount

/-- A number of hits is a sum of ones. -/
theorem countP_eq_sum {α : Type} (p : α → Bool) (l : List α) :
    l.countP p = (l.map fun a => if p a then 1 else 0).sum := by
  induction l with
  | nil => rfl
  | cons a l ih => rw [List.countP_cons, List.map_cons, List.sum_cons, ih, Nat.add_comm]

/-- Counting pairs by their first part or by their second gives the same. -/
theorem sum_countP_comm {α β : Type} (m : α → β → Bool) (l : List α) (k : List β) :
    (l.map fun a => k.countP (m a)).sum = (k.map fun b => l.countP fun a => m a b).sum := by
  induction l with
  | nil => simp
  | cons a l ih =>
    simp only [List.map_cons, List.sum_cons, List.countP_cons, List.sum_map_add, ih, countP_eq_sum (m a),
      Nat.add_comm]

/-- The entry at an address, as the number of its windows that hold the pattern. -/
def matchCount (c : Nat) : Nat := (List.range 8).countP (addressMatches c)

theorem romRead_reset_ofNat {c : Nat} (hc : c ∈ List.range 1024) :
    (romRead State.reset.rom (BitVec.ofNat 10 c)).toNat = matchCount c := by
  have hnumber : (BitVec.ofNat 10 c).toNat = c := Nat.mod_eq_of_lt (List.mem_range.1 hc)
  rw [romRead_reset_toNat]
  exact List.countP_congr fun i _ => by rw [patternAt_getLsbD, hnumber, addressMatches]

/-- The entries add up to the matches of the eight window positions. -/
theorem sum_matchCount : ((List.range 1024).map matchCount).sum = 1024 := by
  have hpositions : (List.range 8).map (fun i => (List.range 1024).countP fun c => addressMatches c i) =
      (List.range 8).map fun _ => 128 :=
    List.map_congr_left fun i hi => countP_addressMatches (List.mem_range.1 hi)
  exact (sum_countP_comm addressMatches _ _).trans (congrArg List.sum hpositions)

/-- How often 0, 1 and 2 stand in the table, by going through it. -/
theorem count_matchCount :
    ((List.range 1024).filter fun c => matchCount c == 0).length = 232 ∧
    ((List.range 1024).filter fun c => matchCount c == 1).length = 568 ∧
    ((List.range 1024).filter fun c => matchCount c == 2).length = 216 := by
  decide +kernel

/-- An address has an entry of 3 where it is one of R99's eight. -/
theorem matchCount_eq_three {c : Nat} (hc : c ∈ List.range 1024) :
    matchCount c = 3 ↔ c ∈ indexesOfThree.map BitVec.toNat := by
  have hnumber : (BitVec.ofNat 10 c).toNat = c := Nat.mod_eq_of_lt (List.mem_range.1 hc)
  obtain ⟨-, hentry⟩ := romBuilt_nil
  obtain ⟨-, -, -, -, -, -, hthree⟩ := stepCountBound
  have hmem := hthree ((BitVec.ofNat 10 c).extractLsb' 8 2) ((BitVec.ofNat 10 c).extractLsb' 0 8)
  rw [← hentry, context_append_sample] at hmem
  rw [← romRead_reset_ofNat hc]
  refine hmem.trans ?_
  rw [← List.mem_map_of_injective BitVec.toNat_injective, hnumber]
  rfl

/-- The addresses with an entry of 3, in rising order. -/
theorem filter_matchCount_eq_three :
    ((List.range 1024).filter fun c => matchCount c == 3) = indexesOfThree.map BitVec.toNat := by
  have hsorted : (indexesOfThree.map BitVec.toNat).Pairwise (· < ·) := by decide
  have hdepth : ∀ c ∈ indexesOfThree.map BitVec.toNat, c ∈ List.range 1024 := fun c h => by
    obtain ⟨v, -, rfl⟩ := List.mem_map.1 h
    exact List.mem_range.2 v.isLt
  refine (List.pairwise_lt_range.filter _).eq_of_mem_iff hsorted fun c => ?_
  rw [List.mem_filter, beq_iff_eq]
  constructor
  · rintro ⟨hc, h⟩
    exact (matchCount_eq_three hc).1 h
  · intro h
    exact ⟨hdepth c h, (matchCount_eq_three (hdepth c h)).2 h⟩

/-- Settles O20: every entry is a `matchCount`. -/
theorem romFacts : Obligations.RomFacts := by
  unfold Obligations.RomFacts
  intro rom all
  have hentry : ∀ c ∈ all, rom c = matchCount c := fun c => romRead_reset_ofNat
  have hfilter : ∀ n, (all.filter fun c => rom c == n) = all.filter fun c => matchCount c == n :=
    fun n => List.filter_congr fun c hc => by rw [hentry c hc]
  have hsum : all.map rom = all.map matchCount := List.map_congr_left hentry
  obtain ⟨hzeros, hones, htwos⟩ := count_matchCount
  obtain ⟨-, -, hbound, -⟩ := stepCountBound
  refine ⟨fun c _ => hbound _, ?_, ?_, ?_, ?_, ?_, fun i hi => ?_, by decide, by decide, by decide,
    by decide, by decide, by decide⟩
  · rw [hfilter]; exact hzeros
  · rw [hfilter]; exact hones
  · rw [hfilter]; exact htwos
  · rw [hfilter]; exact filter_matchCount_eq_three
  · rw [hsum]; exact sum_matchCount
  · exact (List.countP_eq_length_filter).symm.trans (countP_addressMatches (List.mem_range.1 hi))

/-! ### The quarters of the table (R149) -/

/-- The context adds to the count of a sample what windows 7 and 6 match: it reaches no other (R69). -/
theorem stepCount_eq_add (c : Context) (b : Byte) : stepCount c b =
    [5, 4, 3, 2, 1, 0].countP (patternAt b.getLsbD) + (c.getLsbD 0 && b.getLsbD 7 && !b.getLsbD 6).toNat +
      (c.getLsbD 1 && c.getLsbD 0 && !b.getLsbD 7).toNat := by
  have hsample : ∀ k < 8, (c ++ b).getLsbD k = b.getLsbD k := fun k hk => by
    rw [BitVec.getLsbD_append, if_pos hk]
  have hcontext : ∀ k, (c ++ b).getLsbD (8 + k) = c.getLsbD k := fun k => by
    rw [BitVec.getLsbD_append, if_neg (by omega), Nat.add_sub_cancel_left]
  have hlow : [5, 4, 3, 2, 1, 0].countP (patternAt (c ++ b).getLsbD) =
      [5, 4, 3, 2, 1, 0].countP (patternAt b.getLsbD) := List.countP_congr fun i hi => by
    have hlt : i < 6 := by revert i; decide
    rw [patternAt, hsample _ (by omega), hsample _ (by omega), hsample _ (by omega), patternAt]
  have hsix : patternAt (c ++ b).getLsbD 6 = (c.getLsbD 0 && b.getLsbD 7 && !b.getLsbD 6) := by
    rw [patternAt, hcontext 0, hsample _ (by decide), hsample _ (by decide)]
  have hseven : patternAt (c ++ b).getLsbD 7 = (c.getLsbD 1 && c.getLsbD 0 && !b.getLsbD 7) := by
    rw [patternAt, hcontext 1, hcontext 0, hsample _ (by decide)]
  rw [stepCount_eq_countP, Config.bitOrder, List.countP_cons, List.countP_cons, hlow, hsix, hseven,
    Bool.toNat, Bool.toNat, Bool.cond_eq_ite, Bool.cond_eq_ite]

/-- A sample begins with 1, 0 where it is 0x80 to 0xBF. -/
theorem begins_one_zero_iff (b : Byte) : b.extractLsb' 6 2 = 0b10 ↔ 0x80 ≤ b.toNat ∧ b.toNat ≤ 0xBF := by
  have hlt := b.isLt
  rw [← BitVec.toNat_inj, BitVec.extractLsb'_toNat, Nat.shiftRight_eq_div_pow]
  change b.toNat / 64 % 4 = 2 ↔ _
  omega

/-- A sample begins with 0 where it is below 0x80. -/
theorem begins_zero_iff (b : Byte) : b.getLsbD 7 = false ↔ b.toNat < 0x80 := by
  have hmsb : b.getLsbD 7 = decide (0x80 ≤ b.toNat) := BitVec.msb_eq_decide b
  rw [hmsb, decide_eq_false_iff_not, Nat.not_le]

/-- Settles O21: the entries of the four quarters differ by what windows 7 and 6 match. -/
theorem romQuarters : Obligations.RomQuarters := by
  unfold Obligations.RomQuarters
  intro rom b
  have hentry : ∀ k, rom k b = stepCount k b := fun k => romRead_reset_append k b
  have hten : b.extractLsb' 6 2 = 0b10 ↔ b.getLsbD 7 = true ∧ b.getLsbD 6 = false := by
    rw [extractLsb'_two]
    cases b.getLsbD 7 <;> cases b.getLsbD 6 <;> decide
  refine ⟨?_, ?_, ?_, begins_one_zero_iff b, ?_⟩
  · rw [hentry, hentry, stepCount_eq_add, stepCount_eq_add 0b00]
    rfl
  · simp only [hentry, hten, stepCount_eq_add _ b]
    cases b.getLsbD 7 <;> cases b.getLsbD 6 <;> rfl
  · simp only [hentry, hten, stepCount_eq_add _ b]
    cases b.getLsbD 7 <;> cases b.getLsbD 6 <;> rfl
  · rw [begins_zero_iff, begins_one_zero_iff]
    omega

end Sys2Proof.Machine
end

section
/-! PROOFS. The unit LUT (`spec/43_lut.md` R142 to R144), and its table as what unit SW counts over the
synthetic pair (R150, R151). -/

namespace Sys2Proof.Machine

/-! ### One step of the unit (R142 to R144) -/

/-- `PROC.LUT` answers exactly on an initialised unit, reads the ROM at `{LUT.prev[1:0], din}`, and writes
only the previous sample and the output (R142). -/
theorem exec_procLut_next {b : Byte} {s t : State} : exec (.procLut b) s = .next t ↔ s.lutMark = true ∧
    t = { s with lutPrev := b, cntLut := romRead s.rom (s.lutPrev.extractLsb' 0 2 ++ b) } := by
  rw [exec_procLut, procUnit_next, lutIndex_eq]
  rfl

/-- A step that gives a unit a sample shows the reference's count in the context of the unit's stream. -/
theorem clockEdge_cnt_of_sample {u : UnitId} {S : List Byte} {w : CommandWord} {b : Byte} {s t : State}
    (hrom : RomBuilt s.rom) (hs : registerFits u S s) (hw : sampleOf u w = some b)
    (h : clockEdge w s = .next t) : (t.cnt u).toNat = stepCount (lastContext S) b := by
  rw [clockEdge_cnt h u, hw, Option.elim_some, countOf_toNat hrom hs]

/-- A sample of zeros given to unit LUT alone is counted in the context of the unit's stream. -/
theorem runWords_procLut_zeros {S : List Byte} {s : State} (hrom : RomBuilt s.rom)
    (hs : registerFits .lut S s) (hmark : s.lutMark = true) :
    ∃ r, runWords [0x0400] s = some r ∧
      r.outputs.map Counts.lut = [BitVec.ofNat 4 (stepCount (lastContext S) 0x00)] := by
  have hmarks : ∀ u, sampleOf u 0x0400 ≠ none → ({ s with inputs := [] } : State).marked u = true
    | .sm, h => absurd (by decide) h
    | .sw, h => absurd (by decide) h
    | .lut, _ => hmark
  obtain ⟨t, ht⟩ := clockEdge_answers_of_samples hmarks
  have hcnt : (t.cnt .lut).toNat = stepCount (lastContext S) 0x00 :=
    clockEdge_cnt_of_sample (s := { s with inputs := [] }) hrom hs (by decide) ht
  refine ⟨_, runWords_cons.2 ⟨t, _, ht, runWords_nil t, rfl⟩, ?_⟩
  rw [← hcnt, BitVec.ofNat_toNat, BitVec.setWidth_eq]
  rfl

/-- Settles O4: the step by `clockEdge_of_inits`, and the sample after it in the context of an empty
stream. -/
theorem initLutEffect : Obligations.InitLutEffect := by
  have hedge : ∀ (w : CommandWord) (s t : State), w.getLsbD 14 = true ∨ w.getLsbD 13 = true →
      clockEdge w s = .next t → t.lutPrev = 0x00 ∧ t.cntLut = 0 ∧ t.rom = s.rom := fun w s t hbits h => by
    obtain ⟨hprev, hcnt⟩ := clockEdge_of_inits (u := .lut) (initsUnit_of_rst_or_init hbits) h
    exact ⟨hprev, hcnt, clockEdge_rom h⟩
  refine ⟨fun s => rfl, fun w => decodeUnit_of_init (u := .lut), hedge, fun s hprev hrom hmark => ⟨?_, ?_⟩⟩
  · have hnone : ∀ u, sampleOf u 0x2000 = none := fun u => by cases u <;> decide
    obtain ⟨t, ht⟩ := clockEdge_answers_of_samples (s := { s with inputs := [0x0400] })
      fun u hu => absurd (hnone u) hu
    obtain ⟨hprev', hcnt, hrom'⟩ := hedge _ _ _ (by decide) ht
    have hmark' : t.marked .lut = true := by
      rw [marksAreNeverCleared _ _ _ .lut ht, State.withInputs_marked, State.marked_lut, hmark, Bool.true_or]
    obtain ⟨r, hr, houts⟩ := runWords_procLut_zeros (S := []) (hrom' ▸ hrom) hprev' hmark'
    refine ⟨_, runWords_cons.2 ⟨t, r, ht, hr, rfl⟩, ?_⟩
    rw [List.map_cons, houts]
    exact congrArg (· :: _) hcnt
  · exact runWords_procLut_zeros (S := [0x03]) hrom hprev hmark

/-- Settles O7: the held step by `clockEdge_of_hold`. -/
theorem holdLutEffect : Obligations.HoldLutEffect := by
  refine ⟨fun s => rfl, fun w => decodeUnit_of_clear (u := .lut), fun s hprev hsm hsw => ?_⟩
  have hhold : decodeUnit .lut 0x0380 = .holdOf .lut := by decide
  have hmarks : ∀ u, sampleOf u 0x0380 ≠ none → s.marked u = true
    | .sm, _ => hsm
    | .sw, _ => hsw
    | .lut, h => absurd (by decide) h
  obtain ⟨t, ht⟩ := clockEdge_answers_of_samples hmarks
  obtain ⟨hreg, hcnt⟩ := clockEdge_of_hold hhold ht
  exact ⟨t, ht, hreg.symm.trans hprev, hcnt, clockEdge_rom ht⟩

/-- Settles O10: the whole state by `exec_procLut_next`, the bound and the worked example by what a built
ROM holds. -/
theorem procLutEffect : Obligations.ProcLutEffect := by
  refine ⟨fun s b hmark => exec_procLut_next.2 ⟨hmark, rfl⟩, fun w => decodeUnit_of_en (u := .lut),
    fun s t b hrom h => ?_, fun b => ?_, fun s hmark hrom hprev =>
      ⟨by decide, exec_procLut_next.2 ⟨hmark, ?_⟩⟩⟩
  · obtain ⟨-, hentry⟩ := hrom
    obtain ⟨-, rfl⟩ := exec_procLut_next.1 h
    exact (hentry _).trans_le (stepCount_le _ _)
  · rw [lutIndex_eq, lutIndex_eq]
    rfl
  · obtain ⟨-, hentry⟩ := hrom
    have hone : romRead s.rom 0x380 = 1 := BitVec.eq_of_toNat_eq (hentry 0x380)
    rw [hprev, ← hone]
    rfl

/-! ### Unit SW over the synthetic pair (R150, R151) -/

/-- Whether a run is accepted depends on the marks alone (U1). -/
theorem runWords_some_of_marked {ws : List CommandWord} {s t : State} {r : Run}
    (hmarks : ∀ u, s.marked u = t.marked u) (h : runWords ws s = some r) :
    ∃ q, runWords ws t = some q := by
  induction ws generalizing s t r with
  | nil => exact ⟨_, runWords_nil t⟩
  | cons w ws ih =>
    obtain ⟨a, r', hedge, hrest, rfl⟩ := runWords_cons.1 h
    have hready : ∀ u b, decodeUnit u w = .procOf u b →
        ({ t with inputs := ws } : State).marked u = true := fun u b hproc => by
      obtain ⟨c, hc, -⟩ := clockEdge_unit hedge u
      obtain ⟨hmark, -⟩ := exec_procOf_next.1 (hproc ▸ hc)
      simpa [hmarks] using hmark
    obtain ⟨b, hb⟩ := clockEdge_answers hready
    have hnext : ∀ u, a.marked u = b.marked u := fun u => by
      simp only [marksAreNeverCleared _ _ _ u hedge, marksAreNeverCleared _ _ _ u hb,
        State.withInputs_marked, hmarks]
    obtain ⟨q, hq⟩ := ih hnext hrest
    exact ⟨_, runWords_cons.2 ⟨b, q, hb, hq, rfl⟩⟩

/-- `COUNTS_u` looks at the outputs of unit `u` alone. -/
theorem procCounts_congr {u : UnitId} (ws : List CommandWord) {outs outs' : List Counts}
    (h : outs.map (fun c => c.of u) = outs'.map (fun c => c.of u)) :
    procCounts u ws outs = procCounts u ws outs' := by
  have hmap : ∀ l : List Counts, procCounts u ws l =
      (ws.zip (l.map fun c => c.of u)).filterMap fun p => (sampleOf u p.1).map fun _ => p.2.toNat :=
    fun l => by
      rw [procCounts, List.zip_map_right, List.filterMap_map]
      rfl
  rw [hmap, hmap, h]

/-- Unit SM and unit SW count what the reference does whatever the ROM lists: it is not theirs (R25). -/
theorem IsRunOf.procCounts_eq_of_ne_lut {u : UnitId} {S : List Byte} {ws : List CommandWord} {s : State}
    {r : Run} (hu : u ≠ .lut) (hws : IsRunOf u S ws) (h : runWords ws s = some r) :
    procCounts u ws r.outputs = countsFrom 0b00 S := by
  have hmarks : ∀ v, s.marked v = ({ s with rom := [] } : State).marked v := fun v => by cases v <;> rfl
  have hagree : agreeOn u s { s with rom := [] } :=
    agreeOn_iff.2 ⟨by cases u <;> rfl, hmarks u, by cases u <;> rfl, fun hlut => absurd hlut hu⟩
  obtain ⟨q, hq⟩ := runWords_some_of_marked hmarks h
  obtain ⟨houts, -⟩ := runWords_agreeOn hagree rfl h hq
  rw [procCounts_congr ws houts, hws.procCounts_eq romBuilt_nil hq]

/-- The synthetic previous sample has no bit above bit 1, so from the initial context it holds no
occurrence (R150). -/
theorem stepCount_pairHi (c : LutIndex) : stepCount 0b00 (pairHi c) = 0 := by
  rw [stepCount_eq_countP, List.countP_eq_zero]
  intro i hi
  have hlt : i < 8 := by revert i; decide
  have hzero : ((0b00 : Context) ++ pairHi c).getLsbD (i + 2) = false := by
    rw [BitVec.getLsbD_append]
    simp [pairHi]
  rw [patternAt, hzero, Bool.false_and, Bool.false_and]
  exact Bool.false_ne_true

/-- Settles O22: the counts of the run by `procCounts_eq_of_ne_lut`, and `SWCOUNT` is the reference's
count. -/
theorem tableCorrectness : Obligations.TableCorrectness := by
  have hentry : ∀ c, romRead State.reset.rom c = swCount (pairHi c) (pairLo c) := romRead_nil
  refine ⟨fun c ws s r hws h => ?_, hentry, fun c => BitVec.eq_of_toNat_eq ?_⟩
  · have hcounts : procCounts .sw ws r.outputs = [0, (romRead State.reset.rom c).toNat] := by
      rw [hws.procCounts_eq_of_ne_lut (by decide) h, hentry, swCount_toNat, countsFrom, countsFrom,
        countsFrom, stepCount_pairHi]
      rfl
    exact ⟨hcounts, by rw [hcounts, List.sum_pair, Nat.zero_add]⟩
  · rw [swCount_toNat]
    exact stepCount_pairHi c

end Sys2Proof.Machine
end

section
/-! PROOFS. A stream cut in two: where its occurrences go (`spec/45_equivalence_properties.md` R163). -/

namespace Sys2Proof.Machine

/-! ### The bits after the cut (R44) -/

theorem streamBit_append_right (S T : List Byte) (d : Nat) :
    streamBit (S ++ T) (8 * S.length + d) = streamBit T d := by
  have hsample : (8 * S.length + d) / 8 = S.length + d / 8 := by omega
  have hbit : (8 * S.length + d) % 8 = d % 8 := by omega
  rw [streamBit, streamBit, hsample, hbit, List.getElem?_append_right (Nat.le_add_right _ _),
    Nat.add_sub_cancel_left]

/-- From the third bit after the cut on, an occurrence has no bit before the cut. -/
theorem occursAt_append_right (S T : List Byte) {d : Nat} (hd : 2 ≤ d) :
    occursAt (S ++ T) (8 * S.length + d) = occursAt T d := by
  have hstart : 2 ≤ 8 * S.length + d := by omega
  have hlength : 8 * S.length + d < 8 * (S ++ T).length ↔ d < 8 * T.length := by
    rw [List.length_append]; omega
  simp only [occursAt, hstart, hd, hlength, show 8 * S.length + d - 2 = 8 * S.length + (d - 2) by omega,
    show 8 * S.length + d - 1 = 8 * S.length + (d - 1) by omega, streamBit_append_right]

/-- An occurrence has two bits before its last. -/
theorem two_le_of_occursAt {S : List Byte} {n : Nat} (h : occursAt S n = true) : 2 ≤ n := by
  simp only [occursAt, Bool.and_eq_true, decide_eq_true_eq] at h
  obtain ⟨⟨⟨⟨hstart, -⟩, -⟩, -⟩, -⟩ := h
  exact hstart

/-! ### The occurrences across the cut -/

/-- How many occurrences of `S ++ T` have their first bit in `S` and their last in `T`: those whose last bit
is one of the first two after the cut. -/
def straddling (S T : List Byte) : Nat :=
  (List.range (8 * T.length)).countP fun d => decide (d < 2) && occursAt (S ++ T) (8 * S.length + d)

/-- A count is what it counts where `q` holds and what it counts elsewhere. -/
theorem countP_eq_and_add_not_and (p q : Nat → Bool) (l : List Nat) :
    l.countP p = l.countP (fun n => q n && p n) + l.countP fun n => !q n && p n := by
  rw [List.countP_eq_length_filter, List.length_eq_countP_add_countP q, List.countP_filter,
    List.countP_filter]
  simp

/-- Apart from its first two bits, the second part holds the occurrences it holds alone. -/
theorem not_lt_two_and_occursAt_append (S T : List Byte) (d : Nat) :
    (!decide (d < 2) && occursAt (S ++ T) (8 * S.length + d)) = occursAt T d := by
  by_cases hd : d < 2
  · have hnone : occursAt T d = false := Bool.eq_false_iff.2 fun h => by
      have hstart := two_le_of_occursAt h
      omega
    rw [hnone, decide_eq_true hd, Bool.not_true, Bool.false_and]
  · rw [occursAt_append_right S T (by omega), decide_eq_false hd, Bool.not_false, Bool.true_and]

/-- Every occurrence of the whole stream is one of `S`, one of `T`, or straddles the cut. -/
theorem occurrences_append (S T : List Byte) :
    occurrences (S ++ T) = occurrences S + straddling S T + occurrences T := by
  have hbefore : (List.range (8 * S.length)).countP (occursAt (S ++ T)) = occurrences S := by
    rw [occurrences, ← List.countP_eq_length_filter]
    exact List.countP_congr fun n hn => by rw [occursAt_append T (List.mem_range.1 hn)]
  have hafter : (List.range (8 * T.length)).countP (fun d => occursAt (S ++ T) (8 * S.length + d)) =
      straddling S T + occurrences T := by
    rw [countP_eq_and_add_not_and _ fun d => decide (d < 2)]
    simp only [not_lt_two_and_occursAt_append]
    rw [straddling, occurrences, ← List.countP_eq_length_filter]
  rw [occurrences, ← List.countP_eq_length_filter, List.length_append, Nat.mul_add, List.range_add,
    List.countP_append, hbefore, List.countP_map, Nat.add_assoc, ← hafter]
  rfl

/-- Nothing straddles the cut exactly where no occurrence has bits on both sides of it. -/
theorem straddling_eq_zero_iff (S T : List Byte) : straddling S T = 0 ↔
    ∀ n, occursAt (S ++ T) n = true → ¬(n - 2 < 8 * S.length ∧ 8 * S.length ≤ n) := by
  simp only [straddling, List.countP_eq_zero, List.mem_range, Bool.and_eq_true, decide_eq_true_eq, not_and]
  constructor
  · intro h n hocc hfirst hlast
    have hlt := occursAt_lt hocc
    have hstart := two_le_of_occursAt hocc
    rw [List.length_append] at hlt
    refine h (n - 8 * S.length) (by omega) (by omega) ?_
    rwa [Nat.add_sub_cancel' hlast]
  · intro h d _ hd hocc
    have hstart := two_le_of_occursAt hocc
    exact h _ hocc (by omega) (Nat.le_add_right _ _)

/-- The reference's total is the number of occurrences (R92, R100). -/
theorem total_eq_occurrences (S : List Byte) : total S = occurrences S := by
  rw [total, countsFrom_zero, occurrences_eq_sum]

end Sys2Proof.Machine
end

section
/-! PROOFS. Runs of the same samples in the three units (`spec/45_equivalence_properties.md` R160 to R168). -/

namespace Sys2Proof.Machine

/-! ### The samples of a run and the register it leaves (R34, R165) -/

/-- Words that do not initialise a unit continue its stream. -/
theorem streamAfter_of_no_init {u : UnitId} {ws : List CommandWord} (T : List Byte)
    (h : ∀ w ∈ ws, initsUnit u w = false) : streamAfter u T ws = T ++ samplesOf u ws := by
  induction ws generalizing T with
  | nil => exact (List.append_nil T).symm
  | cons w ws ih =>
    obtain ⟨hw, hws⟩ := List.forall_mem_cons.1 h
    have hstream : streamStep T (decodeUnit u w) = T ++ (sampleOf u w).toList :=
      if_neg (Bool.eq_false_iff.1 hw)
    rw [streamAfter_cons, ih _ hws, hstream, samplesOf_cons, List.append_assoc]

/-- After a run of `RUN_u(S)` the stream of unit `u` is `S`. -/
theorem IsRunOf.streamAfter_eq {u : UnitId} {S : List Byte} {ws : List CommandWord}
    (hws : IsRunOf u S ws) : streamAfter u [] ws = S := by
  obtain ⟨w, rest, rfl, hw, hrest, rfl⟩ := hws
  have hempty : streamStep [] (decodeUnit u w) = [] := if_pos hw
  rw [streamAfter_cons, hempty, streamAfter_of_no_init [] hrest, List.nil_append]

/-- Its initialisation takes no sample, so the samples of the whole run are `S`. -/
theorem IsRunOf.samplesOf_eq {u : UnitId} {S : List Byte} {ws : List CommandWord}
    (hws : IsRunOf u S ws) : samplesOf u ws = S := by
  obtain ⟨w, rest, rfl, hw, -, rfl⟩ := hws
  have hnone : sampleOf u w = none := operand?_of_initialises hw
  rw [samplesOf_cons, hnone, Option.toList_none, List.nil_append]

/-- A run of `RUN_u(S)` leaves the register `S` makes (R34). -/
theorem IsRunOf.registerFits {u : UnitId} {S : List Byte} {ws : List CommandWord} {s : State} {r : Run}
    (hws : IsRunOf u S ws) (h : runWords ws s = some r) : registerFits u S r.final := by
  have hinit : ∃ w ∈ ws, initsUnit u w = true := by
    obtain ⟨w, rest, rfl, hw, -, -⟩ := hws
    exact ⟨w, List.mem_cons_self, hw⟩
  have hfits := runWords_registerFits (S := []) (.inr hinit) h
  rwa [hws.streamAfter_eq] at hfits

/-- The stream fixes the register. -/
theorem sameRegister_of_registerFits {u : UnitId} {S : List Byte} {s t : State}
    (hs : registerFits u S s) (ht : registerFits u S t) : sameRegister u s t := by
  cases u <;> exact Eq.trans hs (Eq.symm ht)

@[simp] theorem lastSample_nil : lastSample [] = 0x00 := rfl

@[simp] theorem lastSample_concat (S : List Byte) (b : Byte) : lastSample (S ++ [b]) = b := by
  simp [lastSample]

/-- The context is the last two bits of the last sample (R100, R165). -/
theorem lastSample_extractLsb' (S : List Byte) : (lastSample S).extractLsb' 0 2 = lastContext S := by
  rcases List.eq_nil_or_concat S with rfl | ⟨T, b, rfl⟩
  · rfl
  · simp

/-- Settles O45: each of the three registers is what the one stream makes it. -/
theorem statesCorrespond : Obligations.StatesCorrespond := by
  intro S ws s r hws h
  have hsm : r.final.smPos = posOf (lastContext S) := (hws .sm).registerFits h
  have hsw : r.final.swPrev = lastSample S := (hws .sw).registerFits h
  have hlut : r.final.lutPrev = lastSample S := (hws .lut).registerFits h
  rw [hsm, hsw, hlut, lastSample_extractLsb']
  refine ⟨?_, ?_, rfl, rfl⟩
  · rintro rfl
    exact ⟨rfl, rfl, rfl⟩
  · rintro T b rfl
    simp

/-! ### Every unit counts what the reference does (R160 to R162) -/

/-- Settles O48: both runs count what the reference does. -/
theorem unitsAgreeEveryStep : Obligations.UnitsAgreeEveryStep :=
  fun _ _ _ _ _ _ _ _ _ hs ht hws hvs hr hq =>
    (hws.procCounts_eq hs hr).trans (hvs.procCounts_eq ht hq).symm

/-- Settles O50: the counts by O48, the registers by the one stream that makes both. -/
theorem runsAreDeterministic : Obligations.RunsAreDeterministic :=
  fun u S ws vs s t r q hs ht hws hvs hr hq =>
    ⟨unitsAgreeEveryStep u u S ws vs s t r q hs ht hws hvs hr hq,
      sameRegister_of_registerFits (hws.registerFits hr) (hvs.registerFits hq)⟩

/-! ### The run that feeds all three units (R76, R160) -/

/-- Every unit reads its sample from the word of `FEED b`. -/
theorem decodeUnit_feed (u : UnitId) (b : Byte) : decodeUnit u (feed b).word = .procOf u b :=
  decodeUnit_encodeOps (f := fun v => .procOf v b) (fun _ => .inr (.inl rfl)) u

/-- `RESET` and then one `FEED` for each sample is a run of the samples in every unit. -/
theorem isRunOf_feedSeq (u : UnitId) (S : List Byte) :
    IsRunOf u S (0x4000 :: (feedSeq S).map TraceStep.word) := by
  refine ⟨_, _, rfl, initsUnit_of_rst_or_init (.inl rfl), ?_, ?_⟩
  · simp [feedSeq, initsUnit, decodeUnit_feed]
  · simp [feedSeq, samplesOf, sampleOf, decodeUnit_feed, List.filterMap_map, Function.comp_def]

/-- Where every unit has been initialised, no word is refused (U1). -/
theorem runWords_answers {s : State} (h : ∀ u, s.marked u = true) (ws : List CommandWord) :
    ∃ r, runWords ws s = some r := by
  induction ws generalizing s with
  | nil => exact ⟨_, runWords_nil s⟩
  | cons w ws ih =>
    obtain ⟨t, ht⟩ := clockEdge_answers_of_samples (w := w) (s := { s with inputs := ws })
      fun u _ => by rw [State.withInputs_marked, h u]
    obtain ⟨q, hq⟩ := ih (s := t) fun u => by
      rw [marksAreNeverCleared _ _ _ u ht, State.withInputs_marked, h u, Bool.true_or]
    exact ⟨_, runWords_cons.2 ⟨t, q, ht, hq, rfl⟩⟩

/-- `RESET` initialises every unit, so after it no word is refused. -/
theorem runWords_reset_answers (ws : List CommandWord) (s : State) :
    ∃ r, runWords (0x4000 :: ws) s = some r := by
  have hinit : ∀ u, initsUnit u 0x4000 = true := fun u => initsUnit_of_rst_or_init (.inl rfl)
  obtain ⟨t, ht⟩ := clockEdge_answers_of_samples (w := 0x4000) (s := { s with inputs := ws })
    fun u hsample => absurd (operand?_of_initialises (hinit u)) hsample
  obtain ⟨q, hq⟩ := runWords_answers (s := t) (fun u => by
    rw [marksAreNeverCleared _ _ _ u ht, hinit, Bool.or_true]) ws
  exact ⟨_, runWords_cons.2 ⟨t, q, ht, hq, rfl⟩⟩

/-- Settles O49: the totals by O48 and the reference's count, and the run that feeds all units. -/
theorem unitsAgreeOnTotals : Obligations.UnitsAgreeOnTotals := by
  refine ⟨fun u v S ws vs s t r q hs ht hws hvs hr hq => ⟨?_, ?_⟩,
    fun S s => ⟨fun u => isRunOf_feedSeq u S, runWords_reset_answers _ s⟩⟩
  · rw [unitsAgreeEveryStep u v S ws vs s t r q hs ht hws hvs hr hq]
  · rw [hws.procCounts_eq hs hr, total]

/-! ### A stream given in two parts (R163) -/

/-- `COUNTS_u` of two parts of a run, one after the other. -/
theorem procCounts_append (u : UnitId) (ws vs : List CommandWord) (outs : List Counts) :
    procCounts u (ws ++ vs) outs =
      procCounts u ws (outs.take ws.length) ++ procCounts u vs (outs.drop ws.length) := by
  induction ws generalizing outs with
  | nil => rfl
  | cons w ws ih =>
    cases outs with
    | nil => simp [procCounts]
    | cons c outs =>
      rw [List.cons_append, procCounts_cons, ih, List.length_cons, List.take_succ_cons,
        List.drop_succ_cons, procCounts_cons, List.append_assoc]

/-- More words that do not initialise the unit make a longer run of it. -/
theorem IsRunOf.append {u : UnitId} {S T : List Byte} {ws vs : List CommandWord} (hws : IsRunOf u S ws)
    (hinit : ∀ w ∈ vs, initsUnit u w = false) (hvs : samplesOf u vs = T) :
    IsRunOf u (S ++ T) (ws ++ vs) := by
  obtain ⟨w, rest, rfl, hw, hrest, rfl⟩ := hws
  refine ⟨w, rest ++ vs, rfl, hw, List.forall_mem_append.2 ⟨hrest, hinit⟩, ?_⟩
  rw [← hvs]
  exact List.filterMap_append

/-- Settles O51: given in two parts the words are one run of both; given in two runs the counts are those
of `S1` and of `S2`, and `occurrences_append` says what is missing. -/
theorem splittingIsConsistent : Obligations.SplittingIsConsistent := by
  constructor
  · intro u S1 S2 ws1 ws2 vs s t r q hs ht hws1 hinit hws2 hvs hr hq
    have hcounts := unitsAgreeEveryStep u u _ _ vs s t r q hs ht (hws1.append hinit hws2) hvs hr hq
    exact ⟨(procCounts_append u ws1 ws2 r.outputs).symm.trans hcounts,
      (portTotal_eq_sum_procCounts hr).trans (congrArg List.sum hcounts)⟩
  · intro u S1 S2 ws ws1 ws2 s s1 s2 r r1 r2 hs hs1 hs2 hws hws1 hws2 hr hr1 hr2
    rw [hws.portTotal_eq hs hr, hws1.portTotal_eq hs1 hr1, hws2.portTotal_eq hs2 hr2,
      total_eq_occurrences, total_eq_occurrences, total_eq_occurrences, occurrences_append,
      ← straddling_eq_zero_iff]
    omega

/-! ### The empty input and the worked streams (R164, R167, R168) -/

/-- Without a sample there is nothing to count. -/
theorem procCounts_of_samplesOf_eq_nil {u : UnitId} {ws : List CommandWord} (h : samplesOf u ws = [])
    (outs : List Counts) : procCounts u ws outs = [] := by
  rw [samplesOf, List.filterMap_eq_nil_iff] at h
  rw [procCounts, List.filterMap_eq_nil_iff]
  rintro ⟨w, c⟩ hmem
  rw [h w (List.of_mem_zip hmem).1, Option.map_none]

/-- Settles O52: the port's total is the sum of no counts, and a sum that is 0 has only zeros. -/
theorem emptyInputCountsNothing : Obligations.EmptyInputCountsNothing := by
  intro u ws s r hws h
  have htotal : portTotal u r = 0 := by
    rw [portTotal_eq_sum_procCounts h, procCounts_of_samplesOf_eq_nil hws.samplesOf_eq, List.sum_nil]
  refine ⟨htotal, fun c hc => BitVec.eq_of_toNat_eq ?_⟩
  exact List.sum_eq_zero_iff.1 htotal _ (List.mem_map_of_mem hc)

/-- Settles O53: the reference counts 0 and 1, and the indexes of the sixteen bits are gone through. -/
theorem boundaryCase : Obligations.BoundaryCase := by
  have hreference : countsFrom 0b00 [0xFF, 0x80] = [0, 1] := by decide
  have hindexes : ∀ n < 16, (occursAt [0xFF, 0x80] n = true ↔ n = 9) := by decide
  refine ⟨fun u ws s r hrom hws h => ⟨?_, ?_⟩, by decide, fun n => ⟨fun hocc => ?_, ?_⟩⟩
  · rw [hws.procCounts_eq hrom h, hreference]
  · rw [hws.portTotal_eq hrom h, total, hreference]
    rfl
  · exact (hindexes n (occursAt_lt hocc)).1 hocc
  · rintro rfl
    exact (hindexes 9 (by decide)).2 rfl

/-- Settles O54: the reference counts 1 and 0 in the initial context. -/
theorem singleSampleCases : Obligations.SingleSampleCases := by
  have hpattern : countsFrom 0b00 [0xC0] = [1] := by decide
  have hzeros : countsFrom 0b00 [0x00] = [0] := by decide
  exact fun u ws s r hrom h =>
    ⟨fun hws => (hws.procCounts_eq hrom h).trans hpattern, fun hws => (hws.procCounts_eq hrom h).trans hzeros⟩

end Sys2Proof.Machine
end

section
/-! PROOFS. When a step answers and which unit a refusal names (`spec/93_implementation_defined.md` U1,
`60_exceptions.md` R181), and the priority of reset, initialisation and sample within one step (R183). -/

namespace Sys2Proof.Machine

/-! ### Where a sample comes from -/

/-- Only `PROC.u` gives unit `u` a sample among the operations that concern it (R77). -/
theorem operand?_eq_some_iff {i : Instr} {u : UnitId} {b : Byte} (hi : i.concerns u = true) :
    i.operand? = some b ↔ i = .procOf u b := by
  induction i using Instr.byKind with
  | reset => simp [Instr.operand?]
  | init v => simp
  | proc v c =>
    obtain rfl : u = v := by simpa using hi
    simp
  | hold v => simp

/-- The units a word gives a sample to are those that select `PROC`. -/
theorem sampleOf_eq_some_iff {u : UnitId} {w : CommandWord} {b : Byte} :
    sampleOf u w = some b ↔ decodeUnit u w = .procOf u b :=
  operand?_eq_some_iff (decodeUnit_concerns u w)

/-- A `PROC` among a word's operations is what its own unit selects. -/
theorem sampleOf_of_procOf_mem_decode {u : UnitId} {w : CommandWord} {b : Byte}
    (h : .procOf u b ∈ decode w) : sampleOf u w = some b := by
  obtain ⟨v, hv⟩ := decode_mem h
  have hvu := decodeUnit_concerns v w
  rw [← hv] at hvu
  obtain rfl : v = u := by simpa using hvu
  exact sampleOf_eq_some_iff.2 hv.symm

/-! ### What a refusal names (U1) -/

/-- The refused operations are the samples given to a unit never initialised. -/
theorem exec_refused {i : Instr} {s : State} {r : Refusal} : exec i s = .refused r ↔
    ∃ u b, i = .procOf u b ∧ s.marked u = false ∧ r = .uninitialised u := by
  induction i using Instr.byKind with
  | reset => simp
  | init v => simp [exec_initOf]
  | proc v b =>
    rw [exec_procOf, procUnit_refused]
    constructor
    · exact fun h => ⟨v, b, rfl, h⟩
    · rintro ⟨u, c, hop, h⟩
      obtain ⟨rfl, -⟩ := Instr.procOf_inj.1 hop
      exact h
  | hold v => simp [exec_holdOf]

/-- A list of operations is refused where its first operation is, or where the rest is refused from the
first operation's next state. -/
theorem runOps_cons_refused {i : Instr} {l : List Instr} {s : State} {r : Refusal} :
    runOps (i :: l) s = .refused r ↔
      exec i s = .refused r ∨ ∃ a, exec i s = .next a ∧ runOps l a = .refused r := by
  simp only [runOps]
  cases exec i s <;> simp

/-- A refused list of operations gives a sample to a unit whose mark was not set before the list: no
operation clears a mark. -/
theorem runOps_refused {l : List Instr} {s : State} {r : Refusal} (h : runOps l s = .refused r) :
    ∃ u b, .procOf u b ∈ l ∧ s.marked u = false ∧ r = .uninitialised u := by
  induction l generalizing s with
  | nil => cases h
  | cons i l ih =>
    obtain hfirst | ⟨a, ha, hrest⟩ := runOps_cons_refused.1 h
    · obtain ⟨u, b, rfl, hmark, hr⟩ := exec_refused.1 hfirst
      exact ⟨u, b, List.mem_cons_self, hmark, hr⟩
    · obtain ⟨u, b, hmem, hmark, hr⟩ := ih hrest
      have hbefore : s.marked u = false := Bool.eq_false_iff.2 fun hs => by
        rw [exec_keeps_marked hs ha] at hmark
        cases hmark
      exact ⟨u, b, List.mem_cons_of_mem i hmem, hbefore, hr⟩

/-- A clock edge that answers found every unit it gave a sample to initialised; the converse is
`clockEdge_answers_of_samples`. -/
theorem marked_of_clockEdge_of_sample {u : UnitId} {w : CommandWord} {b : Byte} {s t : State}
    (h : clockEdge w s = .next t) (hw : sampleOf u w = some b) : s.marked u = true := by
  obtain ⟨a, ha, -⟩ := clockEdge_unit h u
  rw [sampleOf_eq_some_iff.1 hw] at ha
  obtain ⟨hmark, -⟩ := exec_procOf_next.1 ha
  exact hmark

/-- Settles O36: both directions of the answer by the samples of the word, the refusal by
`runOps_refused`. -/
theorem stepAnswersExactly : Obligations.StepAnswersExactly := by
  refine fun w s => ⟨⟨?_, fun h => ?_⟩, fun r hr => ?_⟩
  · rintro ⟨t, ht⟩ u hsome
    obtain ⟨b, hb⟩ := Option.isSome_iff_exists.1 hsome
    exact marked_of_clockEdge_of_sample ht hb
  · exact clockEdge_answers_of_samples fun u hu => h u (Option.isSome_iff_ne_none.2 hu)
  · obtain ⟨u, b, hmem, hmark, hname⟩ := runOps_refused hr
    exact ⟨u, hname, Option.isSome_of_eq_some (sampleOf_of_procOf_mem_decode hmem), hmark⟩

/-- Settles O11: the refusing case of `exec_refused`. -/
theorem procUninitialisedRefused : Obligations.ProcUninitialisedRefused :=
  fun u b _ hmark => exec_refused.2 ⟨u, b, rfl, hmark, rfl⟩

/-! ### Priority within one step (R183) -/

/-- `PROC.u` is selected exactly with `en[u]` and neither `rst` nor `init[u]`, and on the word's `din`. -/
theorem decodeUnit_eq_procOf_iff {u : UnitId} {w : CommandWord} {b : Byte} :
    decodeUnit u w = .procOf u b ↔ CommandWord.rst w = false ∧ CommandWord.init w u = false ∧
      CommandWord.en w u = true ∧ b = CommandWord.din w := by
  unfold decodeUnit
  split_ifs with hrst hinit hen
  · simp [hrst]
  · simp [hinit]
  · simp [hrst, hinit, hen, eq_comm]
  · simp [hen]

/-- The reset registers are those of an empty stream (R32). -/
theorem registerFits_reset (u : UnitId) : registerFits u [] State.reset := by cases u <;> rfl

/-- Settles O27: the selection bit by bit, under the spec's own decision D13 (log 12), and what an
initialisation leaves by `clockEdge_of_inits`. -/
theorem priorityWithinOneStep : Obligations.PriorityWithinOneStep := by
  refine ⟨fun w u hrst => if_pos hrst, fun w u => decodeUnit_of_init,
    fun w u b => decodeUnit_eq_procOf_iff, fun w u s t hbits h => ?_⟩
  obtain ⟨hfits, hcnt⟩ := clockEdge_of_inits (initsUnit_of_rst_or_init hbits) h
  exact ⟨sameRegister_of_registerFits hfits (registerFits_reset u), hcnt⟩

end Sys2Proof.Machine
end

section
/-! PROOFS. A run in two parts: the words of a run, cut in two, are two runs (`spec/30_encoding.md` R60). -/

namespace Sys2Proof.Machine

/-! ### What is queued behind a word (log 1) -/

/-- No operation looks at the queue (log 1). -/
theorem exec_withInputs {i : Instr} {s t : State} (h : exec i s = .next t) (ws : List CommandWord) :
    exec i { s with inputs := ws } = .next { t with inputs := ws } := by
  induction i using Instr.byKind with
  | reset => cases h; rfl
  | init u => cases u <;> cases h <;> rfl
  | proc u b =>
    obtain ⟨hmark, rfl⟩ := exec_procOf_next.1 h
    refine exec_procOf_next.2 ⟨by rw [State.withInputs_marked, hmark], ?_⟩
    cases u <;> rfl
  | hold u => cases u <;> cases h <;> rfl

theorem runOps_withInputs {l : List Instr} {s t : State} (h : runOps l s = .next t)
    (ws : List CommandWord) : runOps l { s with inputs := ws } = .next { t with inputs := ws } := by
  induction l generalizing s with
  | nil => cases h; rfl
  | cons i l ih =>
    obtain ⟨a, ha, hrest⟩ := runOps_cons_next.1 h
    exact runOps_cons_next.2 ⟨_, exec_withInputs ha ws, ih hrest⟩

/-- So a clock edge is the same whatever words are queued behind its own. -/
theorem clockEdge_withInputs {w : CommandWord} {s t : State} {ws : List CommandWord}
    (h : clockEdge w { s with inputs := ws } = .next t) (vs : List CommandWord) :
    clockEdge w { s with inputs := vs } = .next { t with inputs := vs } :=
  runOps_withInputs h vs

/-- A run replaces the queue by its own words. -/
theorem runWords_withInputs (ws vs : List CommandWord) (s : State) :
    runWords ws { s with inputs := vs } = runWords ws s := rfl

/-! ### The two runs -/

/-- A run of two lists of words is the run of the first and then, from where it ended, of the second. -/
theorem runWords_append {ws vs : List CommandWord} {s : State} {r : Run} :
    runWords (ws ++ vs) s = some r ↔ ∃ p q, runWords ws s = some p ∧ runWords vs p.final = some q ∧
      r = ⟨q.final, p.outputs ++ q.outputs⟩ := by
  induction ws generalizing s r with
  | nil => simp [runWords_withInputs, eq_comm]
  | cons w ws ih =>
    constructor
    · intro h
      obtain ⟨t, r', hedge, hrest, rfl⟩ := runWords_cons.1 h
      obtain ⟨p, q, hp, hq, rfl⟩ := ih.1 hrest
      exact ⟨_, q, runWords_cons.2 ⟨_, p, clockEdge_withInputs hedge ws, hp, rfl⟩, hq, rfl⟩
    · rintro ⟨p, q, hp, hq, rfl⟩
      obtain ⟨t, p', hedge, hp', rfl⟩ := runWords_cons.1 hp
      exact runWords_cons.2 ⟨_, _, clockEdge_withInputs hedge (ws ++ vs), ih.2 ⟨p', q, hp', hq, rfl⟩, rfl⟩

/-- A run shows one set of outputs in each step. -/
theorem runWords_outputs_length {ws : List CommandWord} {s : State} {r : Run}
    (h : runWords ws s = some r) : r.outputs.length = ws.length := by
  induction ws generalizing s r with
  | nil => cases h; rfl
  | cons w ws ih =>
    obtain ⟨t, q, -, hrest, rfl⟩ := runWords_cons.1 h
    rw [List.length_cons, List.length_cons, ih hrest]

end Sys2Proof.Machine
end

section
/-! PROOFS. The harness's duty, initialisation in mid-stream, and idle steps
(`spec/70_reset_and_hazards.md` R205, R209, R210). -/

namespace Sys2Proof.Machine

/-! ### The harness's duty (R205) -/

theorem initBeforeUse_cons {u : UnitId} {m : Bool} {w : CommandWord} {ws : List CommandWord} :
    initBeforeUse u m (w :: ws) = true ↔
      ((sampleOf u w).isSome = true → m = true) ∧ initBeforeUse u (m || initsUnit u w) ws = true := by
  rw [initBeforeUse, Bool.and_eq_true]
  cases sampleOf u w <;> simp

theorem obeysDuty_iff {s : State} {ws : List CommandWord} :
    obeysDuty s ws = true ↔ ∀ u, initBeforeUse u (s.marked u) ws = true := by
  simp only [obeysDuty, Bool.and_eq_true]
  constructor
  · rintro ⟨⟨hsm, hsw⟩, hlut⟩ u
    cases u
    · exact hsm
    · exact hsw
    · exact hlut
  · exact fun h => ⟨⟨h .sm, h .sw⟩, h .lut⟩

/-- A run is accepted exactly where every unit keeps the duty from its mark on: each step asks for the
marks of the units it gives a sample, and leaves the marks the rest of the words are held to. -/
theorem runWords_answers_iff {ws : List CommandWord} {s : State} :
    (∃ r, runWords ws s = some r) ↔ ∀ u, initBeforeUse u (s.marked u) ws = true := by
  induction ws generalizing s with
  | nil => simp [initBeforeUse]
  | cons w ws ih =>
    obtain ⟨hanswers, -⟩ := stepAnswersExactly w { s with inputs := ws }
    have hmarks : ∀ {t}, clockEdge w { s with inputs := ws } = .next t →
        ∀ u, t.marked u = (s.marked u || initsUnit u w) := fun hedge u => by
      rw [marksAreNeverCleared _ _ _ u hedge, State.withInputs_marked]
    simp only [State.withInputs_marked] at hanswers
    simp only [initBeforeUse_cons, forall_and]
    constructor
    · rintro ⟨r, hr⟩
      obtain ⟨t, q, hedge, hrest, -⟩ := runWords_cons.1 hr
      exact ⟨hanswers.1 ⟨t, hedge⟩, fun u => hmarks hedge u ▸ ih.1 ⟨q, hrest⟩ u⟩
    · rintro ⟨hready, hduty⟩
      obtain ⟨t, hedge⟩ := hanswers.2 hready
      obtain ⟨q, hrest⟩ := ih.2 fun u => hmarks hedge u ▸ hduty u
      exact ⟨_, runWords_cons.2 ⟨t, q, hedge, hrest, rfl⟩⟩

/-- Settles O43: the duty by `runWords_answers_iff`; at reset and after `RESET` every unit is marked. -/
theorem runsAcceptedByDuty : Obligations.RunsAcceptedByDuty := by
  refine ⟨fun ws s => ?_, fun ws => ?_, fun ws s => ?_⟩
  · rw [Bool.eq_iff_iff, Option.isSome_iff_exists, obeysDuty_iff]
    exact runWords_answers_iff
  · exact Option.isSome_iff_exists.2 (runWords_answers (fun u => by cases u <;> rfl) ws)
  · exact Option.isSome_iff_exists.2 (runWords_reset_answers ws s)

/-! ### An initialisation in mid-stream (R209) -/

/-- The last step of a run, where it gives a sample to a unit that the words before it initialise, shows
the reference's count in the context of the samples since the last initialisation. -/
theorem runWords_last_cnt {u : UnitId} {ws : List CommandWord} {w : CommandWord} {b : Byte} {s : State}
    {r : Run} (hrom : RomBuilt s.rom) (hinit : ∃ x ∈ ws, initsUnit u x = true)
    (hw : sampleOf u w = some b) (h : runWords (ws ++ [w]) s = some r) :
    ∃ c, r.outputs.getLast? = some c ∧ (c.of u).toNat = stepCount (lastContext (streamAfter u [] ws)) b := by
  obtain ⟨p, q, hp, hq, rfl⟩ := runWords_append.1 h
  obtain ⟨t, q', hedge, hnil, rfl⟩ := runWords_cons.1 hq
  cases hnil
  have hfits := runWords_registerFits (S := []) (.inr hinit) hp
  have hcnt := clockEdge_cnt_of_sample (s := { p.final with inputs := [] }) (runWords_rom hp ▸ hrom)
    (registerFits_withInputs hfits []) hw hedge
  exact ⟨t.outputs, List.getLast?_concat, by rw [State.outputs_of, hcnt]⟩

/-- Settles O55: the words from the initialisation on are a run of their own, from where the words before
them ended; in the example each unit counts the last sample in the context of its own stream. -/
theorem initialisationSeversContext : Obligations.InitialisationSeversContext := by
  constructor
  · intro u S pre ws s r hrom hws h
    obtain ⟨p, q, hp, hq, rfl⟩ := runWords_append.1 h
    have hlater : (p.outputs ++ q.outputs).drop pre.length = q.outputs :=
      List.drop_left' (runWords_outputs_length hp)
    rw [hlater]
    exact countsAreOccurrences u S ws p.final q (runWords_rom hp ▸ hrom) hws hq
  · intro s hrom
    obtain ⟨r, hr⟩ := runWords_reset_answers [0x0703, 0x2000, 0x0700] s
    have hlast : ∀ u, ∃ c, r.outputs.getLast? = some c ∧ (c.of u).toNat =
        stepCount (lastContext (streamAfter u [] [0x4000, 0x0703, 0x2000])) 0x00 := fun u =>
      runWords_last_cnt hrom ⟨0x4000, List.mem_cons_self, initsUnit_of_rst_or_init (.inl rfl)⟩
        (by cases u <;> decide) hr
    obtain ⟨⟨sm, sw, lut⟩, hc, -⟩ := hlast .sm
    simp only [hc, Option.some.injEq, exists_eq_left'] at hlast
    have hsm : sm = 1 := BitVec.eq_of_toNat_eq (hlast .sm)
    have hsw : sw = 1 := BitVec.eq_of_toNat_eq (hlast .sw)
    have hlut : lut = 0 := BitVec.eq_of_toNat_eq (hlast .lut)
    exact ⟨r, hr, by rw [hc, hsm, hsw, hlut]⟩

/-! ### Idle steps (R210) -/

/-- The operations the words give unit `u`, its holds left out. -/
def activeOps (u : UnitId) (ws : List CommandWord) : List Instr :=
  (ws.map (decodeUnit u)).filter fun i => !i.isHold

@[simp] theorem Instr.isHold_initOf (u : UnitId) : (Instr.initOf u).isHold = false := by cases u <;> rfl
@[simp] theorem Instr.isHold_procOf (u : UnitId) (b : Byte) : (Instr.procOf u b).isHold = false := by
  cases u <;> rfl

/-- The one hold among a unit's operations is its own. -/
theorem eq_holdOf_of_isHold {i : Instr} {u : UnitId} (hi : i.concerns u = true) (h : i.isHold = true) :
    i = .holdOf u := by
  induction i using Instr.byKind with
  | reset => cases h
  | init v => simp at h
  | proc v b => simp at h
  | hold v =>
    obtain rfl : u = v := by simpa using hi
    rfl

/-- Words with no active operation of the unit hold it throughout. -/
theorem activeOps_eq_nil {u : UnitId} {ws : List CommandWord} (h : activeOps u ws = []) :
    ∀ w ∈ ws, decodeUnit u w = .holdOf u := by
  intro w hw
  refine eq_holdOf_of_isHold (decodeUnit_concerns u w) ?_
  simpa using List.filter_eq_nil_iff.1 h _ (List.mem_map_of_mem hw)

/-- Before the first active operation of the unit there are only words that hold it. -/
theorem activeOps_eq_cons {u : UnitId} {ws : List CommandWord} {i : Instr} {l : List Instr}
    (h : activeOps u ws = i :: l) : ∃ held w rest, ws = held ++ w :: rest ∧
      (∀ x ∈ held, decodeUnit u x = .holdOf u) ∧ decodeUnit u w = i ∧ activeOps u rest = l := by
  obtain ⟨before, after, hops, hbefore, -, hafter⟩ := List.filter_eq_cons_iff.1 h
  obtain ⟨held, tail, rfl, rfl, htail⟩ := List.map_eq_append_iff.1 hops
  obtain ⟨w, rest, rfl, hw, rfl⟩ := List.map_eq_cons_iff.1 htail
  refine ⟨held, w, rest, rfl, fun x hx => ?_, hw, hafter⟩
  refine eq_holdOf_of_isHold (decodeUnit_concerns u x) ?_
  simpa using hbefore _ (List.mem_map_of_mem hx)

/-- Words that hold the unit give it no sample. -/
theorem samplesOf_of_holds {u : UnitId} {ws : List CommandWord}
    (hws : ∀ w ∈ ws, decodeUnit u w = .holdOf u) : samplesOf u ws = [] :=
  List.filterMap_eq_nil_iff.2 fun w hw => by rw [sampleOf, hws w hw, Instr.operand?_holdOf]

/-- A run that begins with holds of the unit is, for the unit, the run of the words after them from a state
with the same register and ROM. -/
theorem runWords_skip_holds {u : UnitId} {held ws : List CommandWord} {s : State} {r : Run}
    (hheld : ∀ x ∈ held, decodeUnit u x = .holdOf u) (h : runWords (held ++ ws) s = some r) :
    ∃ a q, sameRegister u s a ∧ a.rom = s.rom ∧ runWords ws a = some q ∧ r.final = q.final ∧
      procCounts u (held ++ ws) r.outputs = procCounts u ws q.outputs := by
  obtain ⟨p, q, hp, hq, rfl⟩ := runWords_append.1 h
  obtain ⟨hreg, -⟩ := runWords_of_holds hheld hp
  refine ⟨p.final, q, hreg, runWords_rom hp, hq, rfl, ?_⟩
  rw [procCounts_append, procCounts_of_samplesOf_eq_nil (samplesOf_of_holds hheld), List.nil_append,
    List.drop_left' (runWords_outputs_length hp)]

/-- An operation of the unit makes the same register of the same register, whatever the marks are: where it
answers it has not been refused for one. -/
theorem exec_sameRegister {i : Instr} {u : UnitId} {s t a b : State} (hi : i.concerns u = true)
    (hreg : sameRegister u s t) (hs : exec i s = .next a) (ht : exec i t = .next b) :
    sameRegister u a b := by
  induction i using Instr.byKind with
  | reset =>
    cases hs; cases ht
    exact sameRegister_initUnit_both
      (sameRegister_initUnit_both (sameRegister_initUnit_both hreg .sm) .sw) .lut
  | init v =>
    rw [exec_initOf] at hs ht; cases hs; cases ht
    exact sameRegister_initUnit_both hreg v
  | proc v c =>
    obtain rfl : u = v := by simpa using hi
    obtain ⟨-, rfl⟩ := exec_procOf_next.1 hs
    obtain ⟨-, rfl⟩ := exec_procOf_next.1 ht
    exact sameRegister_process_both hreg c
  | hold v =>
    rw [exec_holdOf] at hs ht; cases hs; cases ht
    exact sameRegister_setCnt_both hreg v 0

/-- The register is visible where it is the same. -/
theorem sameVisible_of_sameRegister {u : UnitId} {s t : State} (h : sameRegister u s t) :
    sameVisible u s t := by
  cases u with
  | sm => exact h
  | sw => exact congrArg (BitVec.extractLsb' 0 2) h
  | lut => exact congrArg (BitVec.extractLsb' 0 2) h

/-- Two clock edges that select the same operation of the unit, with the same register and ROM, show the
same count and leave the same register. -/
theorem clockEdge_sameRegister {u : UnitId} {w v : CommandWord} {s t a b : State}
    (hop : decodeUnit u w = decodeUnit u v) (hreg : sameRegister u s t) (hrom : s.rom = t.rom)
    (hs : clockEdge w s = .next a) (ht : clockEdge v t = .next b) :
    a.cnt u = b.cnt u ∧ sameRegister u a b := by
  have hcount : s.countOf u = t.countOf u :=
    funext (countOf_eq_of_sameVisible (sameVisible_of_sameRegister hreg) hrom)
  refine ⟨by rw [clockEdge_cnt hs u, clockEdge_cnt ht u, hcount, sampleOf, sampleOf, hop], ?_⟩
  obtain ⟨a', ha', hagree⟩ := clockEdge_unit hs u
  obtain ⟨b', hb', hagree'⟩ := clockEdge_unit ht u
  obtain ⟨haa', -⟩ := agreeOn_iff.1 hagree
  obtain ⟨hbb', -⟩ := agreeOn_iff.1 hagree'
  have hab' := exec_sameRegister (decodeUnit_concerns u w) hreg ha' (hop ▸ hb')
  exact sameRegister_trans (sameRegister_symm haa') (sameRegister_trans hab' hbb')

theorem sameRegister_withInputs {u : UnitId} {s t : State} (h : sameRegister u s t)
    (ws vs : List CommandWord) : sameRegister u { s with inputs := ws } { t with inputs := vs } := by
  cases u <;> exact h

/-- Settles O56, by induction on the active operations of the unit: the holds in front of the next one are
skipped in both runs, and it does the same in both. -/
theorem idleStepsAreHarmless : Obligations.IdleStepsAreHarmless := by
  intro u ws vs s t r q hreg hrom (hops : activeOps u ws = activeOps u vs) hr hq
  induction hl : activeOps u ws generalizing ws vs s t r q with
  | nil =>
    have hws := activeOps_eq_nil hl
    have hvs := activeOps_eq_nil (hops ▸ hl)
    obtain ⟨hsr, -⟩ := runWords_of_holds hws hr
    obtain ⟨htq, -⟩ := runWords_of_holds hvs hq
    refine ⟨?_, sameRegister_trans (sameRegister_symm hsr) (sameRegister_trans hreg htq)⟩
    rw [procCounts_of_samplesOf_eq_nil (samplesOf_of_holds hws),
      procCounts_of_samplesOf_eq_nil (samplesOf_of_holds hvs)]
  | cons i l ih =>
    obtain ⟨held, w, ws, rfl, hheld, hw, hws⟩ := activeOps_eq_cons hl
    obtain ⟨held', v, vs, rfl, hheld', hv, hvs⟩ := activeOps_eq_cons (hops ▸ hl)
    obtain ⟨a, r', hsa, hroma, hr', hfinal, hcounts⟩ := runWords_skip_holds hheld hr
    obtain ⟨b, q', htb, hromb, hq', hfinal', hcounts'⟩ := runWords_skip_holds hheld' hq
    obtain ⟨c, r', hedge, hrest, rfl⟩ := runWords_cons.1 hr'
    obtain ⟨d, q', hedge', hrest', rfl⟩ := runWords_cons.1 hq'
    have hop : decodeUnit u w = decodeUnit u v := hw.trans hv.symm
    have hab : sameRegister u a b :=
      sameRegister_trans (sameRegister_symm hsa) (sameRegister_trans hreg htb)
    have hromab : a.rom = b.rom := hroma.trans (hrom.trans hromb.symm)
    obtain ⟨hcnt, hcd⟩ := clockEdge_sameRegister hop (sameRegister_withInputs hab ws vs) hromab hedge hedge'
    have hromcd : c.rom = d.rom := (clockEdge_rom hedge).trans (hromab.trans (clockEdge_rom hedge').symm)
    obtain ⟨hlater, hreg'⟩ := ih ws vs c d r' q' hcd hromcd (hws.trans hvs.symm) hrest hrest' hws
    rw [hcounts, hcounts', hfinal, hfinal', procCounts_cons, procCounts_cons, State.outputs_of,
      State.outputs_of, hcnt, hlater, sampleOf, sampleOf, hop]
    exact ⟨rfl, hreg'⟩

end Sys2Proof.Machine
end
